-- ==== Sys2Proof/Word.lean ====
section
/-! DEFINITION. The word types of the core (00_scope.md R7) and the byte of its two buffers. -/

namespace Sys2Proof

/-- A byte of `SRC` or `DST`. -/
abbrev Byte := BitVec 8

/-- `u16`: a sample or a predictor register (R7, R22, R23). -/
abbrev U16 := BitVec 16

/-- `u32`: the accumulator, a geometry or size register, a raster counter (R7). -/
abbrev U32 := BitVec 32

/-- `u64`: `cursor`, `count`, and the bits of `RESULT` (R7, R26, R27, R36). -/
abbrev U64 := BitVec 64

end Sys2Proof
end

