-- ==== Sys2Proof/Config.lean ====
section
/-! DEFINITION. What an implementation of the core fixes (00_scope.md R5), the code table (40_code_table.md R120) and the
free values: opaque constants that nothing can evaluate. -/

namespace Sys2Proof

/-- `SRC_BYTE_ORDER` (R5, R64): the spec leaves it open as a parameter, default little. -/
inductive ByteOrder where
  | little
  | big
deriving DecidableEq, Repr

namespace Config

/-- `MAX_CLASS` (R5): the largest magnitude class that has a code. -/
def maxClass : Nat := 14

/-- `DST_MARGIN` (R5, R175): 1 MiB, which R5 and D32 fix as 2^20 bytes. -/
def dstMargin : Nat := 1048576

/-- The literal code table of R120: entry `c` is (code length, code value) of magnitude class `c`. -/
def codeTable : List (Nat × Nat) :=
  [(6, 0x3e), (7, 0x7e), (6, 0x3d), (5, 0x1c), (4, 0x0c), (3, 0x04), (3, 0x02), (2, 0x00),
   (3, 0x03), (3, 0x05), (4, 0x0d), (5, 0x1d), (6, 0x3c), (8, 0xfe), (8, 0xff)]

/-- DESIGN CHOICE (log entry 2): the value a datapath register holds after a hardware reset, which R230 leaves
unspecified. A free value: applied to a fresh number each time, it has no body. -/
opaque unspecified : Nat → U64

/-- DESIGN CHOICE (log entry 3): what the byte of `SRC` at an offset holds while the host has placed nothing there. A free
value of the offset (R68: the buffer is ordinary memory). -/
opaque srcUnplaced : Nat → Byte

/-- DESIGN CHOICE (log entry 3): the same for `DST`. -/
opaque dstUnplaced : Nat → Byte

/-- DESIGN CHOICE (log entry 15): at which moment the core reads a byte of `SRC` that the host has stored during the pass,
which R240 and U4 leave open. A free value of a number that every such store makes fresh, and of the offset. -/
opaque srcMoment : Nat → Nat → Nat

/-- DESIGN CHOICE (log entry 15): at which moment a host access to `DST` during a pass lands between the words, which R240
and U4 leave open. A free value of a fresh number. -/
opaque dstMoment : Nat → Nat

end Config

end Sys2Proof
end

