-- ==== Sys2Proof/Syntax.lean ====
section
/-! DEFINITION. The rows of spec/opcode_table.json as one inductive, the formats they are written in (30_encoding.md R90, R103,
R104) and the reasons the decoder gives. -/

namespace Sys2Proof

/-- The three error kinds of a pass (60_exceptions.md R200). -/
inductive ErrKind where
  | sourceBufferTooSmall
  | noHuffmanEntry
  | outputBufferTooSmall
deriving DecidableEq, Repr

/-- One constructor per row of spec/opcode_table.json. -/
inductive Instr where
  /-- `SYM0`: the symbol of a zero delta, no data field (R93). -/
  | sym0
  /-- `SYM1`: the symbol of class 1 with its 1-bit data field (R93). -/
  | sym1 (d : BitVec 1)
  /-- `SYM2`: the symbol of class 2 with its 2-bit data field (R93). -/
  | sym2 (d : BitVec 2)
  /-- `SYM3`: the symbol of class 3 with its 3-bit data field (R93). -/
  | sym3 (d : BitVec 3)
  /-- `SYM4`: the symbol of class 4 with its 4-bit data field (R93). -/
  | sym4 (d : BitVec 4)
  /-- `SYM5`: the symbol of class 5 with its 5-bit data field (R93). -/
  | sym5 (d : BitVec 5)
  /-- `SYM6`: the symbol of class 6 with its 6-bit data field (R93). -/
  | sym6 (d : BitVec 6)
  /-- `SYM7`: the symbol of class 7 with its 7-bit data field (R93). -/
  | sym7 (d : BitVec 7)
  /-- `SYM8`: the symbol of class 8 with its 8-bit data field (R93). -/
  | sym8 (d : BitVec 8)
  /-- `SYM9`: the symbol of class 9 with its 9-bit data field (R93). -/
  | sym9 (d : BitVec 9)
  /-- `SYM10`: the symbol of class 10 with its 10-bit data field (R93). -/
  | sym10 (d : BitVec 10)
  /-- `SYM11`: the symbol of class 11 with its 11-bit data field (R93). -/
  | sym11 (d : BitVec 11)
  /-- `SYM12`: the symbol of class 12 with its 12-bit data field (R93). -/
  | sym12 (d : BitVec 12)
  /-- `SYM13`: the symbol of class 13 with its 13-bit data field (R93). -/
  | sym13 (d : BitVec 13)
  /-- `SYM14`: the symbol of class 14 with its 14-bit data field (R93). -/
  | sym14 (d : BitVec 14)
  /-- `ROM0`: the code-table word at address 0 (R99, R120). -/
  | rom0
  /-- `ROM1`: the code-table word at address 1 (R99, R120). -/
  | rom1
  /-- `ROM2`: the code-table word at address 2 (R99, R120). -/
  | rom2
  /-- `ROM3`: the code-table word at address 3 (R99, R120). -/
  | rom3
  /-- `ROM4`: the code-table word at address 4 (R99, R120). -/
  | rom4
  /-- `ROM5`: the code-table word at address 5 (R99, R120). -/
  | rom5
  /-- `ROM6`: the code-table word at address 6 (R99, R120). -/
  | rom6
  /-- `ROM7`: the code-table word at address 7 (R99, R120). -/
  | rom7
  /-- `ROM8`: the code-table word at address 8 (R99, R120). -/
  | rom8
  /-- `ROM9`: the code-table word at address 9 (R99, R120). -/
  | rom9
  /-- `ROM10`: the code-table word at address 10 (R99, R120). -/
  | rom10
  /-- `ROM11`: the code-table word at address 11 (R99, R120). -/
  | rom11
  /-- `ROM12`: the code-table word at address 12 (R99, R120). -/
  | rom12
  /-- `ROM13`: the code-table word at address 13 (R99, R120). -/
  | rom13
  /-- `ROM14`: the code-table word at address 14 (R99, R120). -/
  | rom14
  /-- `ROM15`: the unused code-table address, no entry (R99, R122). -/
  | rom15
  /-- `CTRL.START`: a host write of `CTRL` with bit 0 set; bits 31:1 are ignored (R32, R170). -/
  | ctrlStart (reserved : BitVec 31)
  /-- `CTRL.NOP`: a host write of `CTRL` with bit 0 clear (R32). -/
  | ctrlNop (reserved : BitVec 31)
  /-- `STATUS.IDLE`: the `STATUS` word 0x0 (R33, R101). -/
  | statusIdle
  /-- `STATUS.BUSY`: the `STATUS` word 0x1 (R33, R101). -/
  | statusBusy
  /-- `STATUS.DONE`: the `STATUS` word 0x2 (R33, R101). -/
  | statusDone
  /-- `STATUS.ERR_SRC_SMALL`: the `STATUS` word 0x7 (R33, R101). -/
  | statusErrSrcSmall
  /-- `STATUS.ERR_NO_HUFF`: the `STATUS` word 0xB (R33, R101). -/
  | statusErrNoHuff
  /-- `STATUS.ERR_DST_SMALL`: the `STATUS` word 0xF (R33, R101). -/
  | statusErrDstSmall
  /-- `RESULT.SRC_SMALL`: the `RESULT` word -1 (R36, R201). -/
  | resultSrcSmall
  /-- `RESULT.NO_HUFF`: the `RESULT` word -2 (R36, R202). -/
  | resultNoHuff
  /-- `RESULT.DST_SMALL`: the `RESULT` word -3 (R36, R203). -/
  | resultDstSmall
  /-- `RESULT.COUNT`: a non-negative `RESULT` word, the byte count in bits 62:0 (R36, R179). -/
  | resultCount (count : BitVec 63)
  /-- `lookup(c)` (R122). -/
  | lookup (c : Nat)
  /-- `appendBits(c, v)`, `c < 32` (R131). -/
  | appendBits (c v : Nat)
  /-- `flush()` (R134). -/
  | flush
  /-- `predict(row, col)` (R151). -/
  | predict (row col : Nat)
  /-- `observe(row, col, pixel)` (R156). -/
  | observe (row col : Nat) (pixel : U16)
  /-- `encode(COLS, ROWS, START_PRED, SRC, SRC_SIZE, DST_SIZE)`: a whole pass, its operands the registers and the space it
  names (R180). -/
  | encode
  /-- `START`: the host command (R170). -/
  | start
  /-- `CHECK_SRC`: the source-size precondition (R172). -/
  | checkSrc
  /-- `INIT`: predictor, writer and raster counters initialised (R174). -/
  | init
  /-- `ROW_CHECK`: the destination margin check and the row loop head (R175). -/
  | rowCheck
  /-- `PIXEL`: the work of one pixel (R178). -/
  | pixel
  /-- `FINAL_FLUSH`: completion (R179). -/
  | finalFlush
  /-- `raise E`: the abort (R205). -/
  | raise (e : ErrKind)
  /-- `RESET`: the hardware reset (R230). -/
  | reset
deriving DecidableEq, Repr

/-- The bit formats of R90 that the table writes (R104). `raw` is no format of the spec: bits that no row reads. -/
inductive Fmt where
  | sym
  | rom
  | ctrl
  | status
  | result
  | raw
deriving DecidableEq, Repr

/-- The names of the operations that have no bit encoding (R103, R104). -/
inductive OpName where
  | lookup | appendBits | flush | predict | observe | encode
  | start | checkSrc | init | rowCheck | pixel | finalFlush | raise | reset
deriving DecidableEq, Repr

/-- An instruction as it is written down before decoding: the bits of one of the encoded formats, most significant bit
first, or an operation in the notation of R103, its name and its arguments (log entry 13). -/
inductive Frame where
  | bits (fmt : Fmt) (b : List Bool)
  | call (op : OpName) (args : List Nat)
deriving DecidableEq, Repr

/-- Why the decoder refuses a frame. -/
inductive DecodeError where
  /-- The bits end inside a prefix code (R96). -/
  | truncatedCode
  /-- The bits end inside a data field (R92). -/
  | truncatedData
  /-- Bits are left after the one symbol of the frame. -/
  | trailingBits
  /-- A bit string of another length than the format's word. -/
  | wrongLength
  /-- A 12-bit word that no ROM address holds (R120). -/
  | noSuchRomWord
  /-- A word that `STATUS` never reads as (R101). -/
  | noSuchStatus
  /-- A negative word that is none of the three sentinels (R101). -/
  | noSuchResult
  /-- Bits of no format of the spec. -/
  | noFormat
  /-- An operation with the wrong number of arguments (R103). -/
  | wrongArity
  /-- `appendBits` with 32 bits or more: the violated precondition of R133. -/
  | appendCount
  /-- An argument outside its type: a pixel that is no `u16`, an error code that is none of R200's. -/
  | operandRange
deriving DecidableEq, Repr

end Sys2Proof
end

