-- ==== Sys2Proof/WellFormed.lean ====
section
/-! DEFINITION. Which terms of Instr are instructions of the core. The operand types do most of it; what is left is the
precondition of `appendBits` (41_bit_writer.md R131, R133). -/

namespace Sys2Proof

/-- An instruction the core can form: `appendBits` takes fewer than 32 bits (R133); every other operand is bounded by its
type. -/
def Instr.WellFormed : Instr → Bool
  | .appendBits c _ => decide (c < 32)
  | _ => true

end Sys2Proof
end

