-- ==== Sys2Proof/Decode.lean ====
section
/-! DEFINITION. The decoder, total on any frame, rejecting by name; the encoder after it; and the reading of a bare word of
spec/opcode_table.json. -/

namespace Sys2Proof

/-! ## Bit strings -/

/-- The low `n` bits of `v`, most significant first (R6: "MSB-first"). -/
def natBits : Nat → Nat → List Bool
  | 0, _ => []
  | n + 1, v => v.testBit n :: natBits n v

/-- The unsigned number a bit string writes, most significant bit first (R6). -/
def bitsNat : List Bool → Nat
  | [] => 0
  | b :: bs => (if b then 2 ^ bs.length else 0) + bitsNat bs

/-! ## The code table and its words -/

/-- The entry (length, code) of a magnitude class, none above 14: the function `lookup` of R122 over the literal table. -/
def codeEntry (c : Nat) : Option (Nat × Nat) :=
  if c > Config.maxClass then none else Config.codeTable[c]?

/-- The prefix code of a class as a bit string, first-sent bit first (R92, R120). -/
def codeBits (c : Nat) : List Bool :=
  match codeEntry c with
  | some (len, code) => natBits len code
  | none => []

/-- The 12-bit ROM word at an address: the length in bits 11:8, the code in bits 7:0, and length 0 at address 15 (R99). -/
def romWord (address : Nat) : BitVec 12 :=
  match codeEntry address with
  | some (len, code) => BitVec.ofNat 4 len ++ BitVec.ofNat 8 code
  | none => 0#12

/-! ## Rows by number -/

/-- The symbol instruction of a class with a data value; the data field holds the low `c` bits (R92). -/
def symInstr (c d : Nat) : Option Instr :=
  match c with
  | 0 => some .sym0
  | 1 => some (.sym1 (BitVec.ofNat 1 d))
  | 2 => some (.sym2 (BitVec.ofNat 2 d))
  | 3 => some (.sym3 (BitVec.ofNat 3 d))
  | 4 => some (.sym4 (BitVec.ofNat 4 d))
  | 5 => some (.sym5 (BitVec.ofNat 5 d))
  | 6 => some (.sym6 (BitVec.ofNat 6 d))
  | 7 => some (.sym7 (BitVec.ofNat 7 d))
  | 8 => some (.sym8 (BitVec.ofNat 8 d))
  | 9 => some (.sym9 (BitVec.ofNat 9 d))
  | 10 => some (.sym10 (BitVec.ofNat 10 d))
  | 11 => some (.sym11 (BitVec.ofNat 11 d))
  | 12 => some (.sym12 (BitVec.ofNat 12 d))
  | 13 => some (.sym13 (BitVec.ofNat 13 d))
  | 14 => some (.sym14 (BitVec.ofNat 14 d))
  | _ => none

/-- The ROM row of an address. -/
def romInstr (address : Nat) : Option Instr :=
  match address with
  | 0 => some .rom0
  | 1 => some .rom1
  | 2 => some .rom2
  | 3 => some .rom3
  | 4 => some .rom4
  | 5 => some .rom5
  | 6 => some .rom6
  | 7 => some .rom7
  | 8 => some .rom8
  | 9 => some .rom9
  | 10 => some .rom10
  | 11 => some .rom11
  | 12 => some .rom12
  | 13 => some .rom13
  | 14 => some .rom14
  | 15 => some .rom15
  | _ => none

/-- The code of an error kind: `STATUS.ERR`, and minus it in `RESULT` (R200, R205). -/
def ErrKind.code : ErrKind → Nat
  | .sourceBufferTooSmall => 1
  | .noHuffmanEntry => 2
  | .outputBufferTooSmall => 3

/-- The error kind of a code (R200). -/
def errKindOfCode : Nat → Option ErrKind
  | 1 => some .sourceBufferTooSmall
  | 2 => some .noHuffmanEntry
  | 3 => some .outputBufferTooSmall
  | _ => none

/-! ## The decoder -/

/-- Reads one prefix code off a bit string, by the code tree of R96: the class and the rest. -/
def decodeCode : List Bool → Option (Nat × List Bool)
  | false :: false :: r => some (7, r)
  | false :: true :: false :: r => some (6, r)
  | false :: true :: true :: r => some (8, r)
  | true :: false :: false :: r => some (5, r)
  | true :: false :: true :: r => some (9, r)
  | true :: true :: false :: false :: r => some (4, r)
  | true :: true :: false :: true :: r => some (10, r)
  | true :: true :: true :: false :: false :: r => some (3, r)
  | true :: true :: true :: false :: true :: r => some (11, r)
  | true :: true :: true :: true :: false :: false :: r => some (12, r)
  | true :: true :: true :: true :: false :: true :: r => some (2, r)
  | true :: true :: true :: true :: true :: false :: r => some (0, r)
  | true :: true :: true :: true :: true :: true :: false :: r => some (1, r)
  | true :: true :: true :: true :: true :: true :: true :: false :: r => some (13, r)
  | true :: true :: true :: true :: true :: true :: true :: true :: r => some (14, r)
  | _ => none

/-- Reads one symbol off a bit string and answers the rest: a code, which gives the class `c`, then `c` more bits (R96). -/
def decodeSym (b : List Bool) : Except DecodeError (Instr × List Bool) :=
  match decodeCode b with
  | none => .error .truncatedCode
  | some (c, r) =>
    if r.length < c then .error .truncatedData
    else
      match symInstr c (bitsNat (r.take c)) with
      | some i => .ok (i, r.drop c)
      | none => .error .truncatedCode

/-- The ROM row whose word this is (R99, R120); the sixteen words differ. -/
def decodeRom (w : BitVec 12) : Except DecodeError Instr :=
  match ((List.range 16).find? (fun k => romWord k == w)).bind romInstr with
  | some i => .ok i
  | none => .error .noSuchRomWord

/-- A word written to `CTRL`: bit 0 decides, bits 31:1 are ignored (R32, R101). -/
def decodeCtrl (w : U32) : Instr :=
  if w.getLsbD 0 then .ctrlStart (w.extractLsb' 1 31) else .ctrlNop (w.extractLsb' 1 31)

/-- A word read from `STATUS`: one of the six of R101. -/
def decodeStatus (w : U32) : Except DecodeError Instr :=
  if w = 0x0#32 then .ok .statusIdle
  else if w = 0x1#32 then .ok .statusBusy
  else if w = 0x2#32 then .ok .statusDone
  else if w = 0x7#32 then .ok .statusErrSrcSmall
  else if w = 0xB#32 then .ok .statusErrNoHuff
  else if w = 0xF#32 then .ok .statusErrDstSmall
  else .error .noSuchStatus

/-- A word read from `RESULT`: a non-negative count or one of the three sentinels (R36, R101). -/
def decodeResult (w : U64) : Except DecodeError Instr :=
  if w.getLsbD 63 = false then .ok (.resultCount (w.extractLsb' 0 63))
  else if w = 0xFFFFFFFFFFFFFFFF#64 then .ok .resultSrcSmall
  else if w = 0xFFFFFFFFFFFFFFFE#64 then .ok .resultNoHuff
  else if w = 0xFFFFFFFFFFFFFFFD#64 then .ok .resultDstSmall
  else .error .noSuchResult

/-- An operation in the notation of R103: its name and arguments. -/
def decodeCall : OpName → List Nat → Except DecodeError Instr
  | .lookup, [c] => .ok (.lookup c)
  | .appendBits, [c, v] => if c < 32 then .ok (.appendBits c v) else .error .appendCount
  | .flush, [] => .ok .flush
  | .predict, [r, c] => .ok (.predict r c)
  | .observe, [r, c, p] =>
    if p < 65536 then .ok (.observe r c (BitVec.ofNat 16 p)) else .error .operandRange
  | .encode, [] => .ok .encode
  | .start, [] => .ok .start
  | .checkSrc, [] => .ok .checkSrc
  | .init, [] => .ok .init
  | .rowCheck, [] => .ok .rowCheck
  | .pixel, [] => .ok .pixel
  | .finalFlush, [] => .ok .finalFlush
  | .raise, [k] =>
    match errKindOfCode k with
    | some e => .ok (.raise e)
    | none => .error .operandRange
  | .reset, [] => .ok .reset
  | _, _ => .error .wrongArity

/-- The instruction a frame stands for. A `sym` frame holds exactly one symbol; the other bit formats have the one width
of their word (R104). -/
def decode : Frame → Except DecodeError Instr
  | .bits .sym b =>
    match decodeSym b with
    | .ok (i, []) => .ok i
    | .ok (_, _ :: _) => .error .trailingBits
    | .error e => .error e
  | .bits .rom b => if b.length = 12 then decodeRom (BitVec.ofNat 12 (bitsNat b)) else .error .wrongLength
  | .bits .ctrl b => if b.length = 32 then .ok (decodeCtrl (BitVec.ofNat 32 (bitsNat b))) else .error .wrongLength
  | .bits .status b => if b.length = 32 then decodeStatus (BitVec.ofNat 32 (bitsNat b)) else .error .wrongLength
  | .bits .result b => if b.length = 64 then decodeResult (BitVec.ofNat 64 (bitsNat b)) else .error .wrongLength
  | .bits .raw _ => .error .noFormat
  | .call op args => decodeCall op args

/-! ## The encoder -/

/-- The bits of a symbol: the code of the class, then the data value in exactly `c` bits, most significant first (R92). -/
def symBits (c d : Nat) : List Bool :=
  codeBits c ++ natBits c d

/-- The word an instruction of the host-register formats is (R101), zero-extended to 64 bits: what `CTRL` is written with,
or what `STATUS` or `RESULT` reads as. -/
def hostWord : Instr → Option U64
  | .ctrlStart r => some ((r ++ 1#1 : U32).setWidth 64)
  | .ctrlNop r => some ((r ++ 0#1 : U32).setWidth 64)
  | .statusIdle => some 0x0#64
  | .statusBusy => some 0x1#64
  | .statusDone => some 0x2#64
  | .statusErrSrcSmall => some 0x7#64
  | .statusErrNoHuff => some 0xB#64
  | .statusErrDstSmall => some 0xF#64
  | .resultSrcSmall => some 0xFFFFFFFFFFFFFFFF#64
  | .resultNoHuff => some 0xFFFFFFFFFFFFFFFE#64
  | .resultDstSmall => some 0xFFFFFFFFFFFFFFFD#64
  | .resultCount n => some (0#1 ++ n)
  | _ => none

/-- A frame of one of the host-register formats. -/
def hostFrame (fmt : Fmt) (width : Nat) (i : Instr) : Frame :=
  .bits fmt (natBits width ((hostWord i).getD 0#64).toNat)

/-- A frame of the ROM word at an address (R99). -/
def romFrame (address : Nat) : Frame :=
  .bits .rom (natBits 12 (romWord address).toNat)

/-- The frame of an instruction: its bits by the encodings of R93, R99 and R101, or its notation of R103. -/
def encode : Instr → Frame
  | .sym0 => .bits .sym (symBits 0 0)
  | .sym1 d => .bits .sym (symBits 1 d.toNat)
  | .sym2 d => .bits .sym (symBits 2 d.toNat)
  | .sym3 d => .bits .sym (symBits 3 d.toNat)
  | .sym4 d => .bits .sym (symBits 4 d.toNat)
  | .sym5 d => .bits .sym (symBits 5 d.toNat)
  | .sym6 d => .bits .sym (symBits 6 d.toNat)
  | .sym7 d => .bits .sym (symBits 7 d.toNat)
  | .sym8 d => .bits .sym (symBits 8 d.toNat)
  | .sym9 d => .bits .sym (symBits 9 d.toNat)
  | .sym10 d => .bits .sym (symBits 10 d.toNat)
  | .sym11 d => .bits .sym (symBits 11 d.toNat)
  | .sym12 d => .bits .sym (symBits 12 d.toNat)
  | .sym13 d => .bits .sym (symBits 13 d.toNat)
  | .sym14 d => .bits .sym (symBits 14 d.toNat)
  | .rom0 => romFrame 0
  | .rom1 => romFrame 1
  | .rom2 => romFrame 2
  | .rom3 => romFrame 3
  | .rom4 => romFrame 4
  | .rom5 => romFrame 5
  | .rom6 => romFrame 6
  | .rom7 => romFrame 7
  | .rom8 => romFrame 8
  | .rom9 => romFrame 9
  | .rom10 => romFrame 10
  | .rom11 => romFrame 11
  | .rom12 => romFrame 12
  | .rom13 => romFrame 13
  | .rom14 => romFrame 14
  | .rom15 => romFrame 15
  | .ctrlStart r => hostFrame .ctrl 32 (.ctrlStart r)
  | .ctrlNop r => hostFrame .ctrl 32 (.ctrlNop r)
  | .statusIdle => hostFrame .status 32 .statusIdle
  | .statusBusy => hostFrame .status 32 .statusBusy
  | .statusDone => hostFrame .status 32 .statusDone
  | .statusErrSrcSmall => hostFrame .status 32 .statusErrSrcSmall
  | .statusErrNoHuff => hostFrame .status 32 .statusErrNoHuff
  | .statusErrDstSmall => hostFrame .status 32 .statusErrDstSmall
  | .resultSrcSmall => hostFrame .result 64 .resultSrcSmall
  | .resultNoHuff => hostFrame .result 64 .resultNoHuff
  | .resultDstSmall => hostFrame .result 64 .resultDstSmall
  | .resultCount n => hostFrame .result 64 (.resultCount n)
  | .lookup c => .call .lookup [c]
  | .appendBits c v => .call .appendBits [c, v]
  | .flush => .call .flush []
  | .predict r c => .call .predict [r, c]
  | .observe r c p => .call .observe [r, c, p.toNat]
  | .encode => .call .encode []
  | .start => .call .start []
  | .checkSrc => .call .checkSrc []
  | .init => .call .init []
  | .rowCheck => .call .rowCheck []
  | .pixel => .call .pixel []
  | .finalFlush => .call .finalFlush []
  | .raise e => .call .raise [e.code]
  | .reset => .call .reset []

/-! ## A bare word of the opcode table (log entry 14) -/

/-- The frames a bare word of `nbits` bits can be, the first that decodes taken. `nbits` is a row's own width or that width
in whole bytes, the pattern at the least significant end. -/
def tableFrames (nbits w : Nat) : List Frame :=
  match nbits with
  | 8 => [.bits .sym (natBits 8 w), .bits .sym (natBits (if w < 64 then 6 else 8) w)]
  | 12 => [.bits .rom (natBits 12 w), .bits .sym (natBits 12 w)]
  | 16 =>
    if w < 4096 then
      [.bits .rom (natBits 12 w), .bits .sym (natBits (if w < 512 then 9 else if w < 2048 then 11 else 12) w)]
    else [.bits .sym (natBits (if w < 16384 then 14 else 16) w)]
  | 24 =>
    [.bits .sym (natBits (if w < 262144 then 18 else if w < 2097152 then 21 else 22) w)]
  | 32 =>
    if w < 2 then [.bits .ctrl (natBits 32 w)]
    else [.bits .status (natBits 32 w), .bits .ctrl (natBits 32 w)]
  | 64 => [.bits .result (natBits 64 w)]
  | n => [.bits .sym (natBits n w)]

/-- The frame of a bare word: the first of its candidates that decodes, or raw bits that do not. -/
def tableFrame (nbits w : Nat) : Frame :=
  ((tableFrames nbits w).find? (fun f => (decode f).toOption.isSome)).getD (.bits .raw (natBits nbits w))

/-- The instruction the decoder reads from a bare word of the opcode table. -/
def decodeTableWord (nbits w : Nat) : Option Instr :=
  (decode (tableFrame nbits w)).toOption

end Sys2Proof
end

