-- ==== Sys2Proof/Machine/State.lean ====
section
/-! DEFINITION. The state of the core and of the two buffers it works on (10_state.md R20 to R45), as plain data, and the
reasons a step can stop. -/

namespace Sys2Proof.Machine

/-- Where the sequencer is (R30). -/
inductive Phase where
  | idle | checkSrc | init | rowCheck | pixel | finalFlush | done | error
deriving DecidableEq, Repr

/-- The two memory spaces (R40). -/
inductive Space where
  | src
  | dst
deriving DecidableEq, Repr

/-- DESIGN CHOICE (log entry 8): what the last unit operation or host read returned. The spec's operations return values
(R103); they go to no register of the core. -/
inductive Out where
  | none
  /-- `lookup` found (length, code) (R122). -/
  | entry (len code : Nat)
  /-- `lookup` failed (R122). -/
  | notFound
  /-- `predict` returned a value (R151). -/
  | predicted (value : U16)
  /-- `observe` returned (class, data value) (R156). -/
  | observed (cls value : Nat)
  /-- `observe` failed (R156). -/
  | classOutOfRange
  /-- A host read of a register returned its value (R31, R182). -/
  | regRead (reg : Nat) (value : U64)
  /-- A host read compared with one of the codes of R101: the value and whether it is that code. -/
  | regPoll (reg : Nat) (value : U64) (hit : Bool)
  /-- A host read of one byte of a buffer (R182). -/
  | byteRead (space : Space) (offset : Nat) (value : Byte)
deriving DecidableEq, Repr

/-- DESIGN CHOICE (log entry 7): one thing that happens next, by one of the two agents of R11, or a row of the opcode table
put to the machine directly. -/
inductive Action where
  /-- The core takes its next sequencer step (R171). -/
  | core
  /-- The host writes a register (R31, R182). -/
  | hostWrite (reg : Nat) (value : U64)
  /-- The host reads a register (R31, R182). -/
  | hostRead (reg : Nat)
  /-- The host places a byte in a buffer (R232; during a pass it breaks R240, which nothing enforces). -/
  | hostStore (space : Space) (offset : Nat) (value : Byte)
  /-- The host reads a byte of a buffer (R182 (f); of `DST` during a pass it breaks R240). -/
  | hostLoad (space : Space) (offset : Nat)
  /-- Hardware reset (R230). -/
  | resetPin
  /-- A row of the opcode table, as a frame to decode. No agent of R11 can do this (R45). -/
  | frame (f : Frame)
deriving DecidableEq, Repr

/-- A buffer: the bytes something has placed in it, by offset, offsets strictly rising (log entry 3). -/
abbrev Memory := List Host.Cell

/-- The whole state. The last six fields are the model's own; `srcByteOrder` is a parameter of R5, and every other field is a
register or space of R20. -/
structure State where
  /-- `seed[0][0]` (R22). -/
  seed00 : U16
  /-- `seed[0][1]` (R22). -/
  seed01 : U16
  /-- `seed[1][0]` (R22). -/
  seed10 : U16
  /-- `seed[1][1]` (R22). -/
  seed11 : U16
  /-- `running[0]` (R23). -/
  running0 : U16
  /-- `running[1]` (R23). -/
  running1 : U16
  /-- `acc` (R24). -/
  acc : U32
  /-- `nbits` (R25). -/
  nbits : BitVec 5
  /-- `cursor` (R26). -/
  cursor : U64
  /-- `count` (R27). -/
  count : U64
  /-- `phase` (R30). -/
  phase : Phase
  /-- `row` (R28). -/
  row : U32
  /-- `col` (R29). -/
  col : U32
  /-- `STATUS.STATE` (R33). -/
  statusState : BitVec 2
  /-- `STATUS.ERR` (R33). -/
  statusErr : BitVec 2
  /-- `COLS` (R34). -/
  cols : U32
  /-- `ROWS` (R34). -/
  rows : U32
  /-- `START_PRED` (R35). -/
  startPred : U16
  /-- `SRC_SIZE` (R35). -/
  srcSize : U32
  /-- `DST_SIZE` (R35). -/
  dstSize : U32
  /-- `RESULT`, two's complement (R36). -/
  result : U64
  /-- `SRC` (R40, R60). -/
  src : Memory
  /-- `DST` (R40, R61). -/
  dst : Memory
  /-- The parameter `SRC_BYTE_ORDER` (R5, R64): nothing writes it (log entry 6). -/
  srcByteOrder : ByteOrder
  /-- What the last unit operation or host read returned (log entry 8). -/
  out : Out
  /-- The bytes of `SRC` that host stores have overwritten since START, newest first: at the moments R240 leaves open, the
  pass may still read them (U4; log entry 15). -/
  srcPast : List Host.Cell
  /-- `DST` without the words of the pass: what it held at START, with the host's stores since (log entry 15). -/
  dstBefore : Memory
  /-- How many free values have been handed out (log entries 2 and 15). -/
  freeCtr : Nat
  /-- What happens next; with nothing listed the core takes its turn (log entry 7). -/
  pending : List Action
deriving DecidableEq, Repr

/-- Why the machine stops with a fault. -/
inductive Fault where
  /-- A word write with `cursor + 4 > DST_SIZE`, raised by every operation that writes a word. The spec gives the write no
  meaning and asks for a fault (R71, U2). Safe: nothing is claimed from that write on (log entry 4). -/
  | dstOverrun
deriving DecidableEq, Repr

/-- Why an action is refused. -/
inductive Refusal where
  /-- An instruction without a meaning yet; raised by no arm of `exec`. Safe. -/
  | notModelled (mnemonic : String)
  /-- `appendBits` with 32 bits or more, raised by that operation: its precondition is violated and the spec asks for a
  refusal (R133, U1). Safe (log entry 5). -/
  | appendCount (c : Nat)
  /-- A frame that no row of the opcode table reads, raised by the fetch. Safe. -/
  | undecodable (e : DecodeError)
deriving DecidableEq, Repr

/-- The outcome of a step. -/
abbrev Res := Host.Outcome State Fault Refusal

/-- The machine right after a hardware reset (R43, R230). The registers the spec leaves unspecified are zero here, a DESIGN
CHOICE (log entry 1); the byte order is the spec's default (R5). -/
def State.reset : State where
  seed00 := 0
  seed01 := 0
  seed10 := 0
  seed11 := 0
  running0 := 0
  running1 := 0
  acc := 0
  nbits := 0
  cursor := 0
  count := 0
  phase := .idle
  row := 0
  col := 0
  statusState := 0
  statusErr := 0
  cols := 0
  rows := 0
  startPred := 0
  srcSize := 0
  dstSize := 0
  result := 0
  src := []
  dst := []
  srcByteOrder := .little
  out := .none
  srcPast := []
  dstBefore := []
  freeCtr := 0
  pending := []

end Sys2Proof.Machine
end

