-- ==== Sys2Proof/Machine/Flags.lean ====
section
/-! DEFINITION. The core's only flags, `STATUS.STATE` and `STATUS.ERR`, and the codes of R101 (10_state.md R33, 60_exceptions.md
R200). -/

namespace Sys2Proof.Machine

/-- `STATUS.STATE` of a phase: `IDLE` 0, the five phases of a pass `BUSY` 1, `DONE` 2, `ERROR` 3 (R30, R33). -/
def stateCode : Phase → BitVec 2
  | .idle => 0
  | .checkSrc => 1
  | .init => 1
  | .rowCheck => 1
  | .pixel => 1
  | .finalFlush => 1
  | .done => 2
  | .error => 3

/-- `STATUS.ERR` of an error kind (R33, R200). -/
def errField (e : ErrKind) : BitVec 2 :=
  BitVec.ofNat 2 e.code

/-- The `RESULT` sentinel of an error kind: minus its code in 64-bit two's complement (R36, R205). -/
def sentinel (e : ErrKind) : U64 :=
  BitVec.ofInt 64 (-(e.code : Int))

/-- The word `STATUS` reads as: `STATE` in bits 1:0, `ERR` in bits 3:2, zero above (R33). -/
def statusWord (s : State) : U32 :=
  0#28 ++ s.statusErr ++ s.statusState

/-- `STATUS.STATE = BUSY` (R33, R37). -/
def isBusy (s : State) : Bool :=
  s.statusState == 1#2

/-- The phases START leaves: no pass is executing (R170). -/
def restPhase : Phase → Bool
  | .idle => true
  | .done => true
  | .error => true
  | .checkSrc => false
  | .init => false
  | .rowCheck => false
  | .pixel => false
  | .finalFlush => false

/-- Writes `STATUS.STATE` and `STATUS.ERR`. -/
def State.setStatus (s : State) (st err : BitVec 2) : State :=
  { s with statusState := st, statusErr := err }

end Sys2Proof.Machine
end

