-- ==== Sys2Proof/Machine/Memory.lean ====
section
/-! DEFINITION. The two buffers as canonical lists of bytes, and the two byte orders (20_memory.md R60 to R67). -/

namespace Sys2Proof.Machine

/-- The byte something has placed at an offset, none where nothing has (log entry 3). -/
def Memory.read : Memory → Nat → Option Byte
  | [], _ => none
  | (x, v) :: m, a => if a = x then some v else Memory.read m a

/-- Places a byte at an offset. -/
def Memory.write : Memory → Nat → Byte → Memory
  | [], a, b => [(a, b)]
  | (x, v) :: m, a, b =>
    if a < x then (a, b) :: (x, v) :: m
    else if a = x then (a, b) :: m
    else (x, v) :: Memory.write m a b

/-- Every listed offset is above `lo`, and the offsets rise strictly. -/
def Memory.wfAbove (lo : Nat) : Memory → Bool
  | [] => true
  | (x, _) :: m => decide (lo < x) && Memory.wfAbove x m

/-- The canonical form: offsets strictly rising. An unlisted offset holds no placed byte, so no entry is redundant and
equal buffers are equal lists. -/
def Memory.wf : Memory → Bool
  | [] => true
  | (x, _) :: m => Memory.wfAbove x m

/-- Byte `k` (0 to 3) of a word in big-endian order: byte 0 is `w[31:24]` (R63). -/
def wordByte (w : U32) (k : Nat) : Byte :=
  w.extractLsb' (24 - 8 * k) 8

/-- `MemWrite(DST:off, 4, w)`: four bytes, big-endian, at ascending offsets (R63, R67). -/
def Memory.writeWord (m : Memory) (off : Nat) (w : U32) : Memory :=
  (((m.write off (wordByte w 0)).write (off + 1) (wordByte w 1)).write (off + 2) (wordByte w 2)).write
    (off + 3) (wordByte w 3)

/-- The 16-bit sample of two bytes at ascending offsets (R64). -/
def sampleOfBytes : ByteOrder → Byte → Byte → U16
  | .little, b0, b1 => b1 ++ b0
  | .big, b0, b1 => b0 ++ b1

/-- The byte of `SRC` at an offset: the placed byte, or the free value (log entry 3). -/
def srcByte (s : State) (off : Nat) : Byte :=
  (s.src.read off).getD (Config.srcUnplaced off)

/-- The byte of `DST` at an offset: the placed byte, or the free value (log entry 3). -/
def dstByte (s : State) (off : Nat) : Byte :=
  (s.dst.read off).getD (Config.dstUnplaced off)

/-! ## Accesses that break buffer ownership (R240, U4; log entry 15) -/

/-- `b` or one of the others, the number saying which. -/
def oneOf (moment : Nat) (b : Byte) : List Byte → Byte
  | [] => b
  | c :: cs => (b :: c :: cs).getD (moment % (cs.length + 2)) b

/-- The bytes that host stores during the pass have overwritten at an offset of `SRC`. -/
def pastBytes (s : State) (off : Nat) : List Byte :=
  (s.srcPast.filter fun e => e.1 == off).map (·.2)

/-- The byte of `SRC` the core reads: what the buffer holds, or, where the host has stored there during the pass, what it
has held at any moment since START ("whatever the memory holds at the moment of the read, and the moment is not fixed",
U4). -/
def coreByte (s : State) (off : Nat) : Byte :=
  oneOf (Config.srcMoment s.freeCtr off) (srcByte s off) (pastBytes s off)

/-- The byte of `DST` at an offset without the words of the pass. -/
def dstBeforeByte (s : State) (off : Nat) : Byte :=
  (s.dstBefore.read off).getD (Config.dstUnplaced off)

/-- How far the words of the current pass reach in `DST`: before INIT `cursor` is an earlier pass's (R26, R44). -/
def wordsEnd (s : State) : Nat :=
  match s.phase with
  | .idle => s.cursor.toNat
  | .checkSrc => 0
  | .init => 0
  | .rowCheck => s.cursor.toNat
  | .pixel => s.cursor.toNat
  | .finalFlush => s.cursor.toNat
  | .done => s.cursor.toNat
  | .error => s.cursor.toNat

/-- The outcome `b` of a host access to `DST` at an offset, or, where a word of the pass covers the offset and may land at
another moment, the other outcome. -/
def unlessUnderWord (s : State) (off : Nat) (b other : Byte) : Byte :=
  oneOf (Config.dstMoment s.freeCtr) b (if off < wordsEnd s then [other] else [])

end Sys2Proof.Machine
end

