-- ==== Sys2Proof/Machine/Operands.lean ====
section
/-! DEFINITION. Where operands come from: the source sample, the predictor registers, the delta with its class and data value,
and the host registers by number (20_memory.md R66; 42_predictor.md R151 to R154; 10_state.md R31). -/

namespace Sys2Proof.Machine

/-! ## The sample -/

/-- The source sample number `i` that the core reads: two bytes at offset `2*i` in the source byte order (R60, R64, R66). -/
def sampleAt (s : State) (i : Nat) : U16 :=
  sampleOfBytes s.srcByteOrder (coreByte s (2 * i)) (coreByte s (2 * i + 1))

/-- The sample number of the pixel the sequencer is at, `row * COLS + col`, exact (R66). -/
def pixelIndex (s : State) : Nat :=
  s.row.toNat * s.cols.toNat + s.col.toNat

/-! ## The predictor registers -/

/-- `seed[row mod 2][k]`, `k` in 0, 1 (R22). -/
def seedReg (s : State) (row k : Nat) : U16 :=
  if row % 2 = 0 then (if k = 0 then s.seed00 else s.seed01)
  else (if k = 0 then s.seed10 else s.seed11)

/-- `running[col mod 2]` (R23). -/
def runningReg (s : State) (col : Nat) : U16 :=
  if col % 2 = 0 then s.running0 else s.running1

/-- `predict(row, col)`: the seed at columns 0 and 1, the running value from column 2 on (R151). -/
def predictAt (s : State) (row col : Nat) : U16 :=
  if col = 0 ∨ col = 1 then seedReg s row col else runningReg s col

/-! ## Delta, class, data value -/

/-- `delta = pixel - predicted`, exact in the integers (R152, D11). -/
def delta (pixel predicted : U16) : Int :=
  (pixel.toNat : Int) - (predicted.toNat : Int)

/-- `bitlen(a)`: the smallest `k` with `a < 2^k` (R8). -/
def bitlen (a : Nat) : Nat :=
  if a = 0 then 0 else Nat.log2 a + 1

/-- The magnitude class of a delta: 0 for zero, else `bitlen(|delta|) + 1` (R153). -/
def classOf (d : Int) : Nat :=
  if d = 0 then 0 else bitlen d.natAbs + 1

/-- The data value of a delta: `|delta|` if it is not negative, else `(2^class - 1) - |delta|` (R154). -/
def dataValue (d : Int) : Nat :=
  if 0 ≤ d then d.natAbs else (2 ^ classOf d - 1) - d.natAbs

/-- The class and data value `observe` returns for a delta, none where the class exceeds 14: `ClassOutOfRange` (R156). -/
def classify (d : Int) : Option (Nat × Nat) :=
  if classOf d > Config.maxClass then none else some (classOf d, dataValue d)

/-- `(old + delta) mod 65536`, in 0..65535 also for a negative sum (R155). -/
def wrapAdd (old : U16) (d : Int) : U16 :=
  BitVec.ofInt 16 ((old.toNat : Int) + d)

/-! ## The host registers by number -/

/-- What a host read of a register returns, zero-extended: `CTRL` reads 0, numbers 8 and above read 0 (R31 to R38). -/
def regValue (s : State) : Nat → U64
  | 0 => 0
  | 1 => (statusWord s).setWidth 64
  | 2 => s.cols.setWidth 64
  | 3 => s.rows.setWidth 64
  | 4 => s.startPred.setWidth 64
  | 5 => s.srcSize.setWidth 64
  | 6 => s.dstSize.setWidth 64
  | 7 => s.result
  | _ => 0

/-- The parameter register of a number takes the low bits of a value; the other numbers take nothing (R31, R34, R35, R38). -/
def setParam (s : State) (v : U64) : Nat → State
  | 2 => { s with cols := v.setWidth 32 }
  | 3 => { s with rows := v.setWidth 32 }
  | 4 => { s with startPred := v.setWidth 16 }
  | 5 => { s with srcSize := v.setWidth 32 }
  | 6 => { s with dstSize := v.setWidth 32 }
  | _ => s

end Sys2Proof.Machine
end

