-- ==== Sys2Proof/Machine/Ops.lean ====
section
/-! DEFINITION. The named operations over registers and memory: register updates, the bit-stream writer, the predictor update,
the symbol, the abort (the core's exception), START, INIT, completion and the hardware reset. -/

namespace Sys2Proof.Machine

/-- Goes on with the next state, or stops as the outcome stops. -/
def andThen (r : Res) (f : State → Res) : Res :=
  match r with
  | .next s => f s
  | .fault e => .fault e
  | .refused e => .refused e

/-! ## Register updates -/

/-- `seed[row mod 2][k] <- v` (R22). -/
def State.setSeed (s : State) (row k : Nat) (v : U16) : State :=
  { s with
    seed00 := if row % 2 = 0 ∧ k = 0 then v else s.seed00
    seed01 := if row % 2 = 0 ∧ k ≠ 0 then v else s.seed01
    seed10 := if row % 2 ≠ 0 ∧ k = 0 then v else s.seed10
    seed11 := if row % 2 ≠ 0 ∧ k ≠ 0 then v else s.seed11 }

/-- `running[col mod 2] <- v` (R23). -/
def State.setRunning (s : State) (col : Nat) (v : U16) : State :=
  { s with
    running0 := if col % 2 = 0 then v else s.running0
    running1 := if col % 2 ≠ 0 then v else s.running1 }

/-- `acc <- a; nbits <- n` (R24, R25). -/
def State.setAcc (s : State) (a : U32) (n : Nat) : State :=
  { s with acc := a, nbits := BitVec.ofNat 5 n }

/-- `MemWrite(DST:cursor, 4, w); cursor <- cursor + 4; count <- count + k`, without the bound (R67, R131, R134). -/
def State.putWord (s : State) (w : U32) (k : Nat) : State :=
  { s with
    dst := s.dst.writeWord s.cursor.toNat w
    cursor := s.cursor + 4#64
    count := s.count + BitVec.ofNat 64 k }

/-- The value a unit operation or host read returns (log entry 8). -/
def State.setOut (s : State) (o : Out) : State :=
  { s with out := o }

/-! ## Taking an exception: the abort -/

/-- `raise E`, the core's only trap entry (R205): `STATUS.ERR` and `RESULT` take the kind's code, `STATUS.STATE` and `phase`
become `ERROR`. Nothing is saved, there is no handler and no vector. There is no return from it either (R209): the way out
of `ERROR` is `startPass` or `hardwareReset`. -/
def raiseError (e : ErrKind) (s : State) : Res :=
  .next { s.setStatus 3#2 (errField e) with result := sentinel e, phase := .error }

/-! ## The bit-stream writer -/

/-- A word flush: the write at `cursor`, which faults where `cursor + 4 > DST_SIZE` (R67, R71, U2; log entry 4). -/
def storeWord (w : U32) (k : Nat) (s : State) : Res :=
  if s.cursor.toNat + 4 > s.dstSize.toNat then .fault .dstOverrun else .next (s.putWord w k)

/-- `appendBits(c, v)` (R131), refused for `c >= 32` (R133, U1; log entry 5). -/
def appendBits (c v : Nat) (s : State) : Res :=
  if 32 ≤ c then .refused (.appendCount c)
  else
    let f := v % 2 ^ c
    let n := s.nbits.toNat
    if n + c < 32 then
      .next (s.setAcc (s.acc ||| BitVec.ofNat 32 f <<< (32 - n - c)) (n + c))
    else
      let r := c - (32 - n)
      andThen (storeWord (s.acc ||| BitVec.ofNat 32 f >>> r) 4 s) fun t =>
        .next (t.setAcc (if r = 0 then 0#32 else BitVec.ofNat 32 (f % 2 ^ r) <<< (32 - r)) r)

/-- `flush()`: the last partial word, its pure-padding bytes not counted (R134). -/
def flush (s : State) : Res :=
  if 0 < s.nbits.toNat then
    andThen (storeWord s.acc (4 - (32 - s.nbits.toNat) / 8) s) fun t => .next (t.setAcc 0#32 0)
  else .next s

/-- One symbol: the code of the class, then the data value in `c` bits, code first (R92, R178). A class without a code is
`NoHuffmanEntry` (R123, R204; log entry 24); no caller has one. -/
def emitSymbol (c d : Nat) (s : State) : Res :=
  match codeEntry c with
  | some (len, code) => andThen (appendBits len code s) fun t => appendBits c d t
  | none => raiseError .noHuffmanEntry s

/-! ## The predictor -/

/-- The delta of a sample at a position (R152). -/
def deltaAt (s : State) (row col : Nat) (pixel : U16) : Int :=
  delta pixel (predictAt s row col)

/-- The register update of `observe`, made also where the class is out of range (R155, R156, D12). -/
def observeUpdate (s : State) (row col : Nat) (pixel : U16) : State :=
  if col = 0 ∨ col = 1 then
    (s.setSeed row col (wrapAdd (seedReg s row col) (deltaAt s row col pixel))).setRunning col
      (wrapAdd (seedReg s row col) (deltaAt s row col pixel))
  else s.setRunning col (wrapAdd (runningReg s col) (deltaAt s row col pixel))

/-! ## Starting, initialising, completing a pass -/

/-- START (R170): from `IDLE`, `DONE` or `ERROR` a pass begins; while one executes there is no effect. The record of what
the buffers hold while the core owns them begins anew (R75, R240; log entry 15). -/
def startPass (s : State) : State :=
  if restPhase s.phase then
    { s.setStatus 1#2 0#2 with result := 0#64, phase := .checkSrc, srcPast := [], dstBefore := s.dst }
  else s

/-- The registers INIT writes (R44, R174). -/
def initRegs (s : State) : State :=
  { s with
    seed00 := s.startPred, seed01 := s.startPred, seed10 := s.startPred, seed11 := s.startPred
    running0 := s.startPred, running1 := s.startPred
    acc := 0, nbits := 0, cursor := 0, count := 0, row := 0, col := 0 }

/-- The bytes the source buffer must hold, `ROWS * COLS * 2`, exact (R172). -/
def sourceNeed (s : State) : Nat :=
  s.rows.toNat * s.cols.toNat * 2

/-- The margin check fails: `DST_SIZE < count + 1048576`, exact (R175, D13). -/
def marginFails (s : State) : Bool :=
  decide (s.dstSize.toNat < s.count.toNat + Config.dstMargin)

/-- What FINAL_FLUSH does after the flush: `RESULT <- count`, `STATUS.STATE <- DONE`, `phase <- DONE`; `STATUS.ERR` stays
(R179). -/
def complete (s : State) : State :=
  { s.setStatus 2#2 s.statusErr with result := s.count, phase := .done }

/-! ## Hardware reset -/

/-- The value of a register that reset leaves unspecified: the `k`-th free value (log entry 2). -/
def freeReg (w k : Nat) : BitVec w :=
  (Config.unspecified k).setWidth w

/-- Hardware reset (R43, R230): the host registers and the phase take their reset values, the twelve datapath registers
become unspecified, `SRC`, `DST` and the code table are not touched. -/
def hardwareReset (s : State) : State :=
  { s with
    phase := .idle, statusState := 0, statusErr := 0, result := 0
    cols := 0, rows := 0, startPred := 0, srcSize := 0, dstSize := 0
    seed00 := freeReg 16 s.freeCtr, seed01 := freeReg 16 (s.freeCtr + 1)
    seed10 := freeReg 16 (s.freeCtr + 2), seed11 := freeReg 16 (s.freeCtr + 3)
    running0 := freeReg 16 (s.freeCtr + 4), running1 := freeReg 16 (s.freeCtr + 5)
    acc := freeReg 32 (s.freeCtr + 6), nbits := freeReg 5 (s.freeCtr + 7)
    cursor := freeReg 64 (s.freeCtr + 8), count := freeReg 64 (s.freeCtr + 9)
    row := freeReg 32 (s.freeCtr + 10), col := freeReg 32 (s.freeCtr + 11)
    freeCtr := s.freeCtr + 12 }

/-! ## Host accesses -/

/-- A host write of a register: `CTRL` bit 0 is START (R32); a parameter register takes the value unless `BUSY` (R37);
read-only and reserved numbers ignore it (R31, R38). -/
def hostWriteReg (reg : Nat) (v : U64) (s : State) : State :=
  if reg = 0 then (if v.getLsbD 0 then startPass s else s)
  else if isBusy s then s
  else setParam s v reg

/-- A host read of a register: its value, no other effect (R37, R182). -/
def hostReadReg (reg : Nat) (s : State) : State :=
  s.setOut (.regRead reg (regValue s reg))

/-- A host read of a register compared with a code of R101 (log entry 11). -/
def hostPoll (reg : Nat) (word : U64) (s : State) : State :=
  s.setOut (.regPoll reg (regValue s reg) (regValue s reg == word))

/-- A host store of a byte of `SRC` (R232). During a pass the duty of R240 is broken and "not enforced by hardware": the
byte is stored, and what it overwrites may still be what the pass reads (U4; log entry 15). -/
def hostStoreSrc (off : Nat) (b : Byte) (s : State) : State :=
  if isBusy s then
    { s with src := s.src.write off b, srcPast := (off, srcByte s off) :: s.srcPast, freeCtr := s.freeCtr + 1 }
  else { s with src := s.src.write off b }

/-- A host store of a byte of `DST`. During a pass it may land before or after a word of the pass at that offset (R240, U4;
log entry 15). -/
def hostStoreDst (off : Nat) (b : Byte) (s : State) : State :=
  if isBusy s then
    { s with
      dst := s.dst.write off (unlessUnderWord s off b (dstByte s off))
      dstBefore := s.dstBefore.write off b
      freeCtr := s.freeCtr + 1 }
  else { s with dst := s.dst.write off b }

/-- A host store of a buffer byte. -/
def hostStoreByte (space : Space) (off : Nat) (b : Byte) (s : State) : State :=
  match space with
  | .src => hostStoreSrc off b s
  | .dst => hostStoreDst off b s

/-- A host read of a byte of `SRC`: what the host itself has placed there. -/
def hostLoadSrc (off : Nat) (s : State) : State :=
  s.setOut (.byteRead .src off (srcByte s off))

/-- A host read of a byte of `DST` (R182 (f)). During a pass it "may see any prefix of the words" (R240; log entry 15). -/
def hostLoadDst (off : Nat) (s : State) : State :=
  if isBusy s then
    { s.setOut (.byteRead .dst off (unlessUnderWord s off (dstByte s off) (dstBeforeByte s off))) with
      freeCtr := s.freeCtr + 1 }
  else s.setOut (.byteRead .dst off (dstByte s off))

/-- A host read of a buffer byte. -/
def hostLoadByte (space : Space) (off : Nat) (s : State) : State :=
  match space with
  | .src => hostLoadSrc off s
  | .dst => hostLoadDst off s

end Sys2Proof.Machine
end

