-- ==== Sys2Proof/Machine/Encode.lean ====
section
/-! DEFINITION. A whole pass as one function, with the loops of 43_orchestrator.md R180; the sequencer of Sequencer.lean takes the
same pass step by step. The raster registers are kept, so that the state at the end is the sequencer's. -/

namespace Sys2Proof.Machine

/-- Goes on with the next state; anything else is where the pass ends. -/
def goOn : Res → Except Res State
  | .next s => .ok s
  | .fault e => .error (.fault e)
  | .refused e => .error (.refused e)

/-- The body of the column loop at `(row, col)`. -/
def encodePixel (row col : Nat) (s : State) : Except Res State :=
  let pixel := sampleAt s (row * s.cols.toNat + col)
  let t := observeUpdate { s with col := BitVec.ofNat 32 col } row col pixel
  match classify (deltaAt s row col pixel) with
  | none => .error (raiseError .noHuffmanEntry t)
  | some (cls, value) => goOn (emitSymbol cls value t)

/-- `n` columns from `col` on. -/
def encodeColumns (row : Nat) : Nat → Nat → State → Except Res State
  | 0, _, s => .ok s
  | n + 1, col, s =>
    match encodePixel row col s with
    | .ok t => encodeColumns row n (col + 1) t
    | .error r => .error r

/-- The body of the row loop: the margin check, then every column. -/
def encodeRow (row : Nat) (s : State) : Except Res State :=
  if marginFails s then .error (raiseError .outputBufferTooSmall s)
  else
    match encodeColumns row s.cols.toNat 0 s with
    | .ok t => .ok { t with row := BitVec.ofNat 32 (row + 1) }
    | .error r => .error r

/-- `n` rows from `row` on. -/
def encodeRows : Nat → Nat → State → Except Res State
  | 0, _, s => .ok s
  | n + 1, row, s =>
    match encodeRow row s with
    | .ok t => encodeRows n (row + 1) t
    | .error r => .error r

/-- The pass after START: the source check, initialisation, the rows, the final flush, the report (R180). -/
def encodePass (s : State) : Res :=
  if s.srcSize.toNat < sourceNeed s then raiseError .sourceBufferTooSmall s
  else
    match encodeRows s.rows.toNat 0 (initRegs s) with
    | .error r => r
    | .ok t => andThen (flush t) fun u => .next (complete u)

/-- `encode` (R180): the pass of the parameters the registers hold; while a pass executes there is no effect, as for START
(R170; log entry 12). -/
def execEncode (s : State) : Host.Outcome State Fault Refusal :=
  if restPhase s.phase then encodePass (startPass s) else .next s

end Sys2Proof.Machine
end

