-- ==== Sys2Proof/Machine/HostRegs.lean ====
section
/-! DEFINITION. The host-register rows: the words `CTRL` is written with and the words `STATUS` and `RESULT` read as (10_state.md
R32, R33, R36; 30_encoding.md R101). A `STATUS` or `RESULT` row is a host read that compares what it reads with the row's
word (log entry 11). -/

namespace Sys2Proof.Machine

/-- The word of an instruction of these formats. -/
def wordOf (i : Instr) : U64 :=
  (hostWord i).getD 0#64

/-- `CTRL.START`: a host write of `CTRL` with bit 0 set (R32, R170). -/
def execCtrlStart (reserved : BitVec 31) (s : State) : Host.Outcome State Fault Refusal :=
  .next (hostWriteReg 0 (wordOf (.ctrlStart reserved)) s)

/-- `CTRL.NOP`: a host write of `CTRL` with bit 0 clear, no effect (R32). -/
def execCtrlNop (reserved : BitVec 31) (s : State) : Host.Outcome State Fault Refusal :=
  .next (hostWriteReg 0 (wordOf (.ctrlNop reserved)) s)

/-- `STATUS.IDLE`: a host read of `STATUS`, compared with 0x0 (R33, R101). -/
def execStatusIdle (s : State) : Host.Outcome State Fault Refusal :=
  .next (hostPoll 1 (wordOf .statusIdle) s)

/-- `STATUS.BUSY`: a host read of `STATUS`, compared with 0x1 (R33, R101). -/
def execStatusBusy (s : State) : Host.Outcome State Fault Refusal :=
  .next (hostPoll 1 (wordOf .statusBusy) s)

/-- `STATUS.DONE`: a host read of `STATUS`, compared with 0x2 (R33, R101). -/
def execStatusDone (s : State) : Host.Outcome State Fault Refusal :=
  .next (hostPoll 1 (wordOf .statusDone) s)

/-- `STATUS.ERR_SRC_SMALL`: a host read of `STATUS`, compared with 0x7 (R33, R101). -/
def execStatusErrSrcSmall (s : State) : Host.Outcome State Fault Refusal :=
  .next (hostPoll 1 (wordOf .statusErrSrcSmall) s)

/-- `STATUS.ERR_NO_HUFF`: a host read of `STATUS`, compared with 0xB (R33, R101). -/
def execStatusErrNoHuff (s : State) : Host.Outcome State Fault Refusal :=
  .next (hostPoll 1 (wordOf .statusErrNoHuff) s)

/-- `STATUS.ERR_DST_SMALL`: a host read of `STATUS`, compared with 0xF (R33, R101). -/
def execStatusErrDstSmall (s : State) : Host.Outcome State Fault Refusal :=
  .next (hostPoll 1 (wordOf .statusErrDstSmall) s)

/-- `RESULT.SRC_SMALL`: a host read of `RESULT`, compared with -1 (R36, R101). -/
def execResultSrcSmall (s : State) : Host.Outcome State Fault Refusal :=
  .next (hostPoll 7 (wordOf .resultSrcSmall) s)

/-- `RESULT.NO_HUFF`: a host read of `RESULT`, compared with -2 (R36, R101). -/
def execResultNoHuff (s : State) : Host.Outcome State Fault Refusal :=
  .next (hostPoll 7 (wordOf .resultNoHuff) s)

/-- `RESULT.DST_SMALL`: a host read of `RESULT`, compared with -3 (R36, R101). -/
def execResultDstSmall (s : State) : Host.Outcome State Fault Refusal :=
  .next (hostPoll 7 (wordOf .resultDstSmall) s)

/-- `RESULT.COUNT`: a host read of `RESULT`, compared with the non-negative count of the word (R36, R101, R179). -/
def execResultCount (count : BitVec 63) (s : State) : Host.Outcome State Fault Refusal :=
  .next (hostPoll 7 (wordOf (.resultCount count)) s)

end Sys2Proof.Machine
end

