-- ==== Sys2Proof/Machine/Rom.lean ====
section
/-! DEFINITION. The code-table words `ROM0` to `ROM15` (30_encoding.md R99; 40_code_table.md R120, R122). The meaning of a row is
the read of its ROM address (log entry 10). -/

namespace Sys2Proof.Machine

/-- Reads the ROM word at an address and answers what `lookup` makes of it: length 0 is `NotFound` (R99, R122). -/
def romRead (address : Nat) (s : State) : State :=
  let w := romWord address
  if w.extractLsb' 8 4 = 0#4 then s.setOut .notFound
  else s.setOut (.entry (w.extractLsb' 8 4).toNat (w.extractLsb' 0 8).toNat)

/-- `ROM0`: the ROM word at address 0 (R99, R120). -/
def execRom0 (s : State) : Host.Outcome State Fault Refusal :=
  .next (romRead 0 s)

/-- `ROM1`: the ROM word at address 1 (R99, R120). -/
def execRom1 (s : State) : Host.Outcome State Fault Refusal :=
  .next (romRead 1 s)

/-- `ROM2`: the ROM word at address 2 (R99, R120). -/
def execRom2 (s : State) : Host.Outcome State Fault Refusal :=
  .next (romRead 2 s)

/-- `ROM3`: the ROM word at address 3 (R99, R120). -/
def execRom3 (s : State) : Host.Outcome State Fault Refusal :=
  .next (romRead 3 s)

/-- `ROM4`: the ROM word at address 4 (R99, R120). -/
def execRom4 (s : State) : Host.Outcome State Fault Refusal :=
  .next (romRead 4 s)

/-- `ROM5`: the ROM word at address 5 (R99, R120). -/
def execRom5 (s : State) : Host.Outcome State Fault Refusal :=
  .next (romRead 5 s)

/-- `ROM6`: the ROM word at address 6 (R99, R120). -/
def execRom6 (s : State) : Host.Outcome State Fault Refusal :=
  .next (romRead 6 s)

/-- `ROM7`: the ROM word at address 7 (R99, R120). -/
def execRom7 (s : State) : Host.Outcome State Fault Refusal :=
  .next (romRead 7 s)

/-- `ROM8`: the ROM word at address 8 (R99, R120). -/
def execRom8 (s : State) : Host.Outcome State Fault Refusal :=
  .next (romRead 8 s)

/-- `ROM9`: the ROM word at address 9 (R99, R120). -/
def execRom9 (s : State) : Host.Outcome State Fault Refusal :=
  .next (romRead 9 s)

/-- `ROM10`: the ROM word at address 10 (R99, R120). -/
def execRom10 (s : State) : Host.Outcome State Fault Refusal :=
  .next (romRead 10 s)

/-- `ROM11`: the ROM word at address 11 (R99, R120). -/
def execRom11 (s : State) : Host.Outcome State Fault Refusal :=
  .next (romRead 11 s)

/-- `ROM12`: the ROM word at address 12 (R99, R120). -/
def execRom12 (s : State) : Host.Outcome State Fault Refusal :=
  .next (romRead 12 s)

/-- `ROM13`: the ROM word at address 13 (R99, R120). -/
def execRom13 (s : State) : Host.Outcome State Fault Refusal :=
  .next (romRead 13 s)

/-- `ROM14`: the ROM word at address 14 (R99, R120). -/
def execRom14 (s : State) : Host.Outcome State Fault Refusal :=
  .next (romRead 14 s)

/-- `ROM15`: the ROM word at address 15 (R99, R122). -/
def execRom15 (s : State) : Host.Outcome State Fault Refusal :=
  .next (romRead 15 s)

end Sys2Proof.Machine
end

