-- ==== Sys2Proof/Machine/Sequencer.lean ====
section
/-! DEFINITION. The host command START, the five sequencer steps, the abort and the hardware reset (43_orchestrator.md R170 to
R179; 60_exceptions.md R205; 70_reset_and_hazards.md R230). Each step is its pseudocode and tests no phase; that the
sequencer takes it only in its own phase is said where the sequencer is (Fetch.lean; log entry 13). -/

namespace Sys2Proof.Machine

/-- `START` (R170). -/
def execStart (s : State) : Host.Outcome State Fault Refusal :=
  .next (startPass s)

/-- `CHECK_SRC` (R172): `SourceBufferTooSmall` before anything else, or on to `INIT`. -/
def execCheckSrc (s : State) : Host.Outcome State Fault Refusal :=
  if s.srcSize.toNat < sourceNeed s then raiseError .sourceBufferTooSmall s
  else .next { s with phase := .init }

/-- `INIT` (R174). -/
def execInit (s : State) : Host.Outcome State Fault Refusal :=
  .next { initRegs s with phase := .rowCheck }

/-- `ROW_CHECK` (R175): the end of the rows, the margin check, or the head of a row, which has no pixel when `COLS = 0`. -/
def execRowCheck (s : State) : Host.Outcome State Fault Refusal :=
  if s.row = s.rows then .next { s with phase := .finalFlush }
  else if marginFails s then raiseError .outputBufferTooSmall s
  else if s.cols = 0#32 then .next { s with row := s.row + 1#32, phase := .rowCheck }
  else .next { s with col := 0#32, phase := .pixel }

/-- Where PIXEL goes after the symbol: the next column, or the next row (R177, R178). -/
def nextPosition (s : State) : State :=
  if s.col.toNat + 1 < s.cols.toNat then { s with col := s.col + 1#32, phase := .pixel }
  else { s with row := s.row + 1#32, phase := .rowCheck }

/-- `PIXEL` (R178): read the sample, observe it, append its symbol, advance; `NoHuffmanEntry` where `observe` fails, with the
predictor update made and nothing appended (R202, D12). -/
def execPixel (s : State) : Host.Outcome State Fault Refusal :=
  let pixel := sampleAt s (pixelIndex s)
  let t := observeUpdate s s.row.toNat s.col.toNat pixel
  match classify (deltaAt s s.row.toNat s.col.toNat pixel) with
  | none => raiseError .noHuffmanEntry t
  | some (cls, value) => andThen (emitSymbol cls value t) fun u => .next (nextPosition u)

/-- `FINAL_FLUSH` (R179). -/
def execFinalFlush (s : State) : Host.Outcome State Fault Refusal :=
  andThen (flush s) fun t => .next (complete t)

/-- `raise E` (R205). -/
def execRaise (e : ErrKind) (s : State) : Host.Outcome State Fault Refusal :=
  raiseError e s

/-- `RESET` (R230). -/
def execReset (s : State) : Host.Outcome State Fault Refusal :=
  .next (hardwareReset s)

end Sys2Proof.Machine
end

