-- ==== Sys2Proof/Machine/Stream.lean ====
section
/-! DEFINITION. The stream symbols `SYM0` to `SYM14` (30_encoding.md R92, R93). A symbol is what one pixel contributes to the
stream; its meaning as an instruction is that contribution, appended by the bit-stream writer (log entry 9). -/

namespace Sys2Proof.Machine

/-- `SYM0`: the 6-bit code of a zero delta and no data (R93). -/
def execSym0 (s : State) : Host.Outcome State Fault Refusal :=
  emitSymbol 0 0 s

/-- `SYM1`: the code of class 1, then the 1-bit data field (R93). No pixel produces it (R98). -/
def execSym1 (d : BitVec 1) (s : State) : Host.Outcome State Fault Refusal :=
  emitSymbol 1 d.toNat s

/-- `SYM2`: the code of class 2, then the 2-bit data field (R93). -/
def execSym2 (d : BitVec 2) (s : State) : Host.Outcome State Fault Refusal :=
  emitSymbol 2 d.toNat s

/-- `SYM3`: the code of class 3, then the 3-bit data field (R93). -/
def execSym3 (d : BitVec 3) (s : State) : Host.Outcome State Fault Refusal :=
  emitSymbol 3 d.toNat s

/-- `SYM4`: the code of class 4, then the 4-bit data field (R93). -/
def execSym4 (d : BitVec 4) (s : State) : Host.Outcome State Fault Refusal :=
  emitSymbol 4 d.toNat s

/-- `SYM5`: the code of class 5, then the 5-bit data field (R93). -/
def execSym5 (d : BitVec 5) (s : State) : Host.Outcome State Fault Refusal :=
  emitSymbol 5 d.toNat s

/-- `SYM6`: the code of class 6, then the 6-bit data field (R93). -/
def execSym6 (d : BitVec 6) (s : State) : Host.Outcome State Fault Refusal :=
  emitSymbol 6 d.toNat s

/-- `SYM7`: the code of class 7, then the 7-bit data field (R93). -/
def execSym7 (d : BitVec 7) (s : State) : Host.Outcome State Fault Refusal :=
  emitSymbol 7 d.toNat s

/-- `SYM8`: the code of class 8, then the 8-bit data field (R93). -/
def execSym8 (d : BitVec 8) (s : State) : Host.Outcome State Fault Refusal :=
  emitSymbol 8 d.toNat s

/-- `SYM9`: the code of class 9, then the 9-bit data field (R93). -/
def execSym9 (d : BitVec 9) (s : State) : Host.Outcome State Fault Refusal :=
  emitSymbol 9 d.toNat s

/-- `SYM10`: the code of class 10, then the 10-bit data field (R93). -/
def execSym10 (d : BitVec 10) (s : State) : Host.Outcome State Fault Refusal :=
  emitSymbol 10 d.toNat s

/-- `SYM11`: the code of class 11, then the 11-bit data field (R93). -/
def execSym11 (d : BitVec 11) (s : State) : Host.Outcome State Fault Refusal :=
  emitSymbol 11 d.toNat s

/-- `SYM12`: the code of class 12, then the 12-bit data field (R93). -/
def execSym12 (d : BitVec 12) (s : State) : Host.Outcome State Fault Refusal :=
  emitSymbol 12 d.toNat s

/-- `SYM13`: the code of class 13, then the 13-bit data field (R93). -/
def execSym13 (d : BitVec 13) (s : State) : Host.Outcome State Fault Refusal :=
  emitSymbol 13 d.toNat s

/-- `SYM14`: the code of class 14, then the 14-bit data field (R93). -/
def execSym14 (d : BitVec 14) (s : State) : Host.Outcome State Fault Refusal :=
  emitSymbol 14 d.toNat s

end Sys2Proof.Machine
end

