-- ==== Sys2Proof/Machine/Units.lean ====
section
/-! DEFINITION. The five unit operations (30_encoding.md R103), each as the unit performs it by itself; what it returns goes to
`out` (log entry 8). -/

namespace Sys2Proof.Machine

/-- `lookup(c)` (R122). -/
def execLookup (c : Nat) (s : State) : Host.Outcome State Fault Refusal :=
  match codeEntry c with
  | some (len, code) => .next (s.setOut (.entry len code))
  | none => .next (s.setOut .notFound)

/-- `appendBits(c, v)` (R131). -/
def execAppendBits (c v : Nat) (s : State) : Host.Outcome State Fault Refusal :=
  appendBits c v s

/-- `flush()` (R134). -/
def execFlush (s : State) : Host.Outcome State Fault Refusal :=
  flush s

/-- `predict(row, col)` (R151). -/
def execPredict (row col : Nat) (s : State) : Host.Outcome State Fault Refusal :=
  .next (s.setOut (.predicted (predictAt s row col)))

/-- `observe(row, col, pixel)` (R156): the registers are updated also where the class is out of range (D12). -/
def execObserve (row col : Nat) (pixel : U16) (s : State) : Host.Outcome State Fault Refusal :=
  match classify (deltaAt s row col pixel) with
  | some (cls, value) => .next ((observeUpdate s row col pixel).setOut (.observed cls value))
  | none => .next ((observeUpdate s row col pixel).setOut .classOutOfRange)

end Sys2Proof.Machine
end

