-- ==== Sys2Proof/Machine/Dispatch.lean ====
section
/-! DEFINITION. One arm per row of spec/opcode_table.json, each a direct call of its meaning. -/

namespace Sys2Proof.Machine

def exec (i : Instr) (s : State) : Host.Outcome State Fault Refusal :=
  match i with
  | .sym0 => Sys2Proof.Machine.execSym0 s
  | .sym1 d => Sys2Proof.Machine.execSym1 d s
  | .sym2 d => Sys2Proof.Machine.execSym2 d s
  | .sym3 d => Sys2Proof.Machine.execSym3 d s
  | .sym4 d => Sys2Proof.Machine.execSym4 d s
  | .sym5 d => Sys2Proof.Machine.execSym5 d s
  | .sym6 d => Sys2Proof.Machine.execSym6 d s
  | .sym7 d => Sys2Proof.Machine.execSym7 d s
  | .sym8 d => Sys2Proof.Machine.execSym8 d s
  | .sym9 d => Sys2Proof.Machine.execSym9 d s
  | .sym10 d => Sys2Proof.Machine.execSym10 d s
  | .sym11 d => Sys2Proof.Machine.execSym11 d s
  | .sym12 d => Sys2Proof.Machine.execSym12 d s
  | .sym13 d => Sys2Proof.Machine.execSym13 d s
  | .sym14 d => Sys2Proof.Machine.execSym14 d s
  | .rom0 => Sys2Proof.Machine.execRom0 s
  | .rom1 => Sys2Proof.Machine.execRom1 s
  | .rom2 => Sys2Proof.Machine.execRom2 s
  | .rom3 => Sys2Proof.Machine.execRom3 s
  | .rom4 => Sys2Proof.Machine.execRom4 s
  | .rom5 => Sys2Proof.Machine.execRom5 s
  | .rom6 => Sys2Proof.Machine.execRom6 s
  | .rom7 => Sys2Proof.Machine.execRom7 s
  | .rom8 => Sys2Proof.Machine.execRom8 s
  | .rom9 => Sys2Proof.Machine.execRom9 s
  | .rom10 => Sys2Proof.Machine.execRom10 s
  | .rom11 => Sys2Proof.Machine.execRom11 s
  | .rom12 => Sys2Proof.Machine.execRom12 s
  | .rom13 => Sys2Proof.Machine.execRom13 s
  | .rom14 => Sys2Proof.Machine.execRom14 s
  | .rom15 => Sys2Proof.Machine.execRom15 s
  | .ctrlStart reserved => Sys2Proof.Machine.execCtrlStart reserved s
  | .ctrlNop reserved => Sys2Proof.Machine.execCtrlNop reserved s
  | .statusIdle => Sys2Proof.Machine.execStatusIdle s
  | .statusBusy => Sys2Proof.Machine.execStatusBusy s
  | .statusDone => Sys2Proof.Machine.execStatusDone s
  | .statusErrSrcSmall => Sys2Proof.Machine.execStatusErrSrcSmall s
  | .statusErrNoHuff => Sys2Proof.Machine.execStatusErrNoHuff s
  | .statusErrDstSmall => Sys2Proof.Machine.execStatusErrDstSmall s
  | .resultSrcSmall => Sys2Proof.Machine.execResultSrcSmall s
  | .resultNoHuff => Sys2Proof.Machine.execResultNoHuff s
  | .resultDstSmall => Sys2Proof.Machine.execResultDstSmall s
  | .resultCount count => Sys2Proof.Machine.execResultCount count s
  | .lookup c => Sys2Proof.Machine.execLookup c s
  | .appendBits c v => Sys2Proof.Machine.execAppendBits c v s
  | .flush => Sys2Proof.Machine.execFlush s
  | .predict row col => Sys2Proof.Machine.execPredict row col s
  | .observe row col pixel => Sys2Proof.Machine.execObserve row col pixel s
  | .encode => Sys2Proof.Machine.execEncode s
  | .start => Sys2Proof.Machine.execStart s
  | .checkSrc => Sys2Proof.Machine.execCheckSrc s
  | .init => Sys2Proof.Machine.execInit s
  | .rowCheck => Sys2Proof.Machine.execRowCheck s
  | .pixel => Sys2Proof.Machine.execPixel s
  | .finalFlush => Sys2Proof.Machine.execFinalFlush s
  | .raise e => Sys2Proof.Machine.execRaise e s
  | .reset => Sys2Proof.Machine.execReset s

end Sys2Proof.Machine
end

