-- ==== Sys2Proof/Machine/Fetch.lean ====
section
/-! DEFINITION. What the machine does next. The core fetches no instructions (20_memory.md R77): `(phase, row, col)` selects the
sequencer's step by the fixed transition table (43_orchestrator.md R171). What the host does is the list `pending` (log entry
7). -/

namespace Sys2Proof.Machine

/-- What a step is about to do. -/
inductive Fetched where
  /-- Run an instruction on a state. -/
  | run (i : Instr) (s : State)
  /-- Nothing to decode: the outcome is known. -/
  | done (r : Res)

/-- The sequencer's step in a phase; at rest there is none (R171). -/
def sequencerStep : Phase → Option Instr
  | .idle => none
  | .checkSrc => some .checkSrc
  | .init => some .init
  | .rowCheck => some .rowCheck
  | .pixel => some .pixel
  | .finalFlush => some .finalFlush
  | .done => none
  | .error => none

/-- The core's turn: the step of its phase; at rest the core does nothing (R171, R211). -/
def coreTurn (s : State) : Fetched :=
  match sequencerStep s.phase with
  | some i => .run i s
  | none => .done (.next s)

/-- One action on a state it has already been taken off. -/
def takeAction (a : Action) (s : State) : Fetched :=
  match a with
  | .core => coreTurn s
  | .hostWrite 0 v => .run (decodeCtrl (v.setWidth 32)) s
  | .hostWrite (n + 1) v => .done (.next (hostWriteReg (n + 1) v s))
  | .hostRead reg => .done (.next (hostReadReg reg s))
  | .hostStore space off b => .done (.next (hostStoreByte space off b s))
  | .hostLoad space off => .done (.next (hostLoadByte space off s))
  | .resetPin => .run .reset s
  | .frame f =>
    match decode f with
    | .ok i => .run i s
    | .error e => .done (.refused (.undecodable e))

/-- The next thing that happens: the first pending action, or the core's turn where nothing is pending. -/
def fetch (s : State) : Fetched :=
  match s.pending with
  | [] => coreTurn s
  | a :: rest => takeAction a { s with pending := rest }

end Sys2Proof.Machine
end

