-- ==== Sys2Proof/Machine/Step.lean ====
section
/-! DEFINITION. One step: one action of the host or one step of the core (00_scope.md R12). -/

namespace Sys2Proof.Machine

/-- One step. -/
def step (s : State) : Host.Outcome State Fault Refusal :=
  match fetch s with
  | .run i t => exec i t
  | .done r => r

/-- The state with a bare word of the opcode table as the next action (log entries 7 and 14). -/
def State.withFetchWord (s : State) (nbits w : Nat) : State :=
  { s with pending := .frame (tableFrame nbits w) :: s.pending }

end Sys2Proof.Machine
end

