-- ==== Sys2Proof/Safety.lean ====
section
/-! DEFINITION. The terms claims are made in: the bit stream a state has written, the invariants of 10_state.md R42, what a run of
steps is, and the stream the samples of a frame stand for (30_encoding.md R91; 42_predictor.md R158). -/

namespace Sys2Proof.Machine

/-! ## The stream -/

/-- The bits of the first `n` bytes of `DST`: stream bit `j` is bit `7 - (j mod 8)` of byte `j / 8` (R63, R91). -/
def dstBits (s : State) (n : Nat) : List Bool :=
  (List.range n).flatMap fun k => natBits 8 (dstByte s k).toNat

/-- The valid bits held in the accumulator, from bit 31 down (R24). -/
def heldBits (s : State) : List Bool :=
  (natBits 32 s.acc.toNat).take s.nbits.toNat

/-- Every bit appended so far: the words written, then the bits held (R42 (d), R136). -/
def streamBits (s : State) : List Bool :=
  dstBits s s.cursor.toNat ++ heldBits s

/-- The bits of `acc` below the valid ones are zero (R24, R42 (a)). -/
def AccClean (s : State) : Prop :=
  s.acc.toNat % 2 ^ (32 - s.nbits.toNat) = 0

/-- The next word write lies below `DST_SIZE` (R71). -/
def HasRoom (s : State) : Prop :=
  s.cursor.toNat + 4 ≤ s.dstSize.toNat

/-! ## Runs -/

/-- `n` steps, stopping at the first that gives no next state. -/
def runSteps : Nat → State → Res
  | 0, s => .next s
  | n + 1, s => andThen (step s) (runSteps n)

/-- An action one of the two agents of R11 can take: every action but a row put to the machine directly (R45). -/
def Action.ofAgent : Action → Bool
  | .frame _ => false
  | .core => true
  | .hostWrite _ _ => true
  | .hostRead _ => true
  | .hostStore _ _ _ => true
  | .hostLoad _ _ => true
  | .resetPin => true

/-- What happens next is all the agents' doing. -/
def AgentsOnly (s : State) : Prop :=
  s.pending.all Action.ofAgent = true

/-! ## Invariants -/

/-- `STATUS` and `RESULT` agree with the phase (R30, R33, R36, R101). -/
def StatusAgrees (s : State) : Prop :=
  s.statusState = stateCode s.phase ∧
  match s.phase with
  | .error => ∃ e : ErrKind, s.statusErr = errField e ∧ s.result = sentinel e
  | .done => s.statusErr = 0#2 ∧ 0 ≤ s.result.toInt
  | .idle => s.statusErr = 0#2 ∧ s.result = 0#64
  | .checkSrc => s.statusErr = 0#2 ∧ s.result = 0#64
  | .init => s.statusErr = 0#2 ∧ s.result = 0#64
  | .rowCheck => s.statusErr = 0#2 ∧ s.result = 0#64
  | .pixel => s.statusErr = 0#2 ∧ s.result = 0#64
  | .finalFlush => s.statusErr = 0#2 ∧ s.result = 0#64

/-- Both buffers are in canonical form (log entry 3), and so is `DST` without the words of the pass (log entry 15). -/
def BuffersCanonical (s : State) : Prop :=
  s.src.wf = true ∧ s.dst.wf = true ∧ s.dstBefore.wf = true

/-- `DST` from the words of the pass on is as the host left it (R183, R206). -/
def UntouchedBeyondWords (s : State) : Prop :=
  ∀ a : Nat, wordsEnd s ≤ a → s.dst.read a = s.dstBefore.read a

/-- The writer between two steps of a pass (R26, R27, R42 (a) to (c)). `cursor` has stayed within `DST_SIZE` because the
model faults where it would not (log entry 4). -/
def WriterInPass (s : State) : Prop :=
  AccClean s ∧ s.cursor.toNat % 4 = 0 ∧ s.count = s.cursor ∧ s.cursor.toNat ≤ s.dstSize.toNat ∧ UntouchedBeyondWords s

/-- Where the raster counters and the writer stand in each phase (R28, R29, R42, R66, R135 (c)). -/
def PassAgrees (s : State) : Prop :=
  match s.phase with
  | .idle => True
  | .checkSrc => UntouchedBeyondWords s
  | .error => True
  | .init => sourceNeed s ≤ s.srcSize.toNat ∧ UntouchedBeyondWords s
  | .rowCheck => sourceNeed s ≤ s.srcSize.toNat ∧ WriterInPass s ∧ s.row.toNat ≤ s.rows.toNat
  | .pixel =>
    sourceNeed s ≤ s.srcSize.toNat ∧ WriterInPass s ∧ s.row.toNat < s.rows.toNat ∧ s.col.toNat < s.cols.toNat
  | .finalFlush => sourceNeed s ≤ s.srcSize.toNat ∧ WriterInPass s ∧ s.row = s.rows
  | .done =>
    s.result = s.count ∧ s.acc = 0#32 ∧ s.nbits = 0#5 ∧ s.cursor.toNat = 4 * ((s.count.toNat + 3) / 4)

/-- The invariant of the machine under its two agents. -/
def Inv (s : State) : Prop :=
  AgentsOnly s ∧ StatusAgrees s ∧ BuffersCanonical s ∧ PassAgrees s

/-- The greatest multiple of 4 that the margin check lets `count` reach at the head of a row (R175). -/
def marginBase (s : State) : Nat :=
  4 * ((s.dstSize.toNat - Config.dstMargin) / 4)

/-- How far the writer can have got since the margin check of the current row, at most 22 bits a pixel (R71, R93). -/
def MarginAgrees (s : State) : Prop :=
  match s.phase with
  | .idle => True
  | .checkSrc => True
  | .init => True
  | .done => True
  | .error => True
  | .pixel =>
    Config.dstMargin ≤ s.dstSize.toNat ∧
      8 * s.cursor.toNat + s.nbits.toNat ≤ 8 * marginBase s + 31 + 22 * s.col.toNat
  | .rowCheck =>
    (s.cursor = 0#64 ∧ s.nbits = 0#5) ∨
      (Config.dstMargin ≤ s.dstSize.toNat ∧
        8 * s.cursor.toNat + s.nbits.toNat ≤ 8 * marginBase s + 31 + 22 * s.cols.toNat)
  | .finalFlush =>
    (s.cursor = 0#64 ∧ s.nbits = 0#5) ∨
      (Config.dstMargin ≤ s.dstSize.toNat ∧
        8 * s.cursor.toNat + s.nbits.toNat ≤ 8 * marginBase s + 31 + 22 * s.cols.toNat)

/-! ## The predictor, by earlier samples -/

/-- Sample number `i` as `SRC` holds it (R60, R64). The core reads this one where the host keeps to R240. -/
def placedSample (s : State) (i : Nat) : U16 :=
  sampleOfBytes s.srcByteOrder (srcByte s (2 * i)) (srcByte s (2 * i + 1))

/-- The last sample at column `k` of the rows below `n` that have parity `p`, or `START_PRED` if there is none (R157 (a)). -/
def lastSeed (s : State) (p k : Nat) : Nat → U16
  | 0 => s.startPred
  | n + 1 => if n % 2 = p then placedSample s (n * s.cols.toNat + k) else lastSeed s p k n

/-- The sample that predicts the pixel at `(r, c)`, or `START_PRED` (R158). -/
def neighbour (s : State) (r c : Nat) : U16 :=
  if c < 2 then
    if r < 2 then s.startPred else placedSample s ((r - 2) * s.cols.toNat + c)
  else placedSample s (r * s.cols.toNat + (c - 2))

/-- Each seed holds the last sample of its position class (R157 (a)); inside a row each running register whose parity has
been seen holds the last sample of that parity (R157 (b)). Nothing is said once the host has stored into `SRC` during the
pass (R240, U4). -/
def PredictorAgrees (s : State) : Prop :=
  match s.phase with
  | .idle => True
  | .checkSrc => True
  | .init => True
  | .finalFlush => True
  | .done => True
  | .error => True
  | .rowCheck =>
    s.srcPast = [] → ∀ p k : Nat, p < 2 → k < 2 → k < s.cols.toNat → seedReg s p k = lastSeed s p k s.row.toNat
  | .pixel =>
    s.srcPast = [] → (∀ p k : Nat, p < 2 → k < 2 → k < s.cols.toNat →
      seedReg s p k = lastSeed s p k (if k < s.col.toNat then s.row.toNat + 1 else s.row.toNat)) ∧
    (∀ c : Nat, c < s.col.toNat → s.col.toNat ≤ c + 2 →
      runningReg s c = placedSample s (s.row.toNat * s.cols.toNat + c))

/-! ## The stream of a frame -/

/-- The delta of sample number `i` against the sample that predicts it (R152, R158). -/
def frameDelta (s : State) (i : Nat) : Int :=
  delta (placedSample s i) (neighbour s (i / s.cols.toNat) (i % s.cols.toNat))

/-- The symbols of the first `n` samples, back to back (R91, R92). -/
def frameBits (s : State) (n : Nat) : List Bool :=
  (List.range n).flatMap fun i => symBits (classOf (frameDelta s i)) (dataValue (frameDelta s i))

end Sys2Proof.Machine
end

