-- ==== Sys2Proof/Certificates/Slice0/Obligations.lean ====
section
/-! DEFINITION. Statements for the provers, and the few terms they share. Each docstring names the rule of spec/ it formalises. -/

open Sys2Proof Sys2Proof.Machine

namespace Sys2Proof.Claims

/-- The symbol patterns of the table of R93, written out from its columns "code bits" and "total bits". -/
def symbolPattern : Instr → Option (List Bool)
  | .sym0 => some (natBits 6 0b111110)
  | .sym1 d => some (natBits 7 0b1111110 ++ natBits 1 d.toNat)
  | .sym2 d => some (natBits 6 0b111101 ++ natBits 2 d.toNat)
  | .sym3 d => some (natBits 5 0b11100 ++ natBits 3 d.toNat)
  | .sym4 d => some (natBits 4 0b1100 ++ natBits 4 d.toNat)
  | .sym5 d => some (natBits 3 0b100 ++ natBits 5 d.toNat)
  | .sym6 d => some (natBits 3 0b010 ++ natBits 6 d.toNat)
  | .sym7 d => some (natBits 2 0b00 ++ natBits 7 d.toNat)
  | .sym8 d => some (natBits 3 0b011 ++ natBits 8 d.toNat)
  | .sym9 d => some (natBits 3 0b101 ++ natBits 9 d.toNat)
  | .sym10 d => some (natBits 4 0b1101 ++ natBits 10 d.toNat)
  | .sym11 d => some (natBits 5 0b11101 ++ natBits 11 d.toNat)
  | .sym12 d => some (natBits 6 0b111100 ++ natBits 12 d.toNat)
  | .sym13 d => some (natBits 8 0b11111110 ++ natBits 13 d.toNat)
  | .sym14 d => some (natBits 8 0b11111111 ++ natBits 14 d.toNat)
  | _ => none

/-- Appending `n` bits writes no word, or the word fits below `DST_SIZE`. -/
def Fits (s : State) (n : Nat) : Prop :=
  s.nbits.toNat + n < 32 ∨ HasRoom s

/-- Every field but the writer's five is unchanged. -/
def OnlyWriter (s t : State) : Prop :=
  t = { s with acc := t.acc, nbits := t.nbits, cursor := t.cursor, count := t.count, dst := t.dst }

/-- The writer after `n` more bits, `n < 32`: below 32 held bits nothing is written; else one word, at `cursor`, and every
byte outside its four is as before. -/
def WriterMoved (s t : State) (n : Nat) : Prop :=
  if s.nbits.toNat + n < 32 then
    t.nbits.toNat = s.nbits.toNat + n ∧ t.cursor = s.cursor ∧ t.count = s.count ∧ t.dst = s.dst
  else
    t.nbits.toNat = s.nbits.toNat + n - 32 ∧ t.cursor = s.cursor + 4#64 ∧ t.count = s.count + 4#64 ∧
      ∀ a : Nat, (a < s.cursor.toNat ∨ s.cursor.toNat + 4 ≤ a) → t.dst.read a = s.dst.read a

/-- The delta of the pixel the sequencer is at (R66, R152). -/
def pixelDelta (s : State) : Int :=
  ((sampleAt s (s.row.toNat * s.cols.toNat + s.col.toNat)).toNat : Int)
    - ((predictAt s s.row.toNat s.col.toNat).toNat : Int)

/-- `s` with the sample in the registers that `observe(row, col, pixel)` writes: the seed of the row's parity at columns 0
and 1, and the running register of the column's parity (R155, R157). -/
def sampleMovedIn (s : State) (row col : Nat) (pixel : U16) : State :=
  { s with
    seed00 := if row % 2 = 0 ∧ col = 0 then pixel else s.seed00
    seed01 := if row % 2 = 0 ∧ col = 1 then pixel else s.seed01
    seed10 := if row % 2 = 1 ∧ col = 0 then pixel else s.seed10
    seed11 := if row % 2 = 1 ∧ col = 1 then pixel else s.seed11
    running0 := if col % 2 = 0 then pixel else s.running0
    running1 := if col % 2 = 1 then pixel else s.running1 }

/-- The inputs of a pass are the same in both states: the five parameters, the two buffers and the byte order (R13). -/
def SameInputs (s t : State) : Prop :=
  s.cols = t.cols ∧ s.rows = t.rows ∧ s.startPred = t.startPred ∧ s.srcSize = t.srcSize ∧ s.dstSize = t.dstSize ∧
    s.src = t.src ∧ s.dst = t.dst ∧ s.srcByteOrder = t.srcByteOrder

/-- What the host can see of the end of a pass is the same in both states (R14). -/
def SameOutputs (s t : State) : Prop :=
  s.phase = t.phase ∧ s.statusState = t.statusState ∧ s.statusErr = t.statusErr ∧ s.result = t.result ∧ s.dst = t.dst

/-- The five parameter registers and the byte order are unchanged. -/
def SameRegisters (s t : State) : Prop :=
  t.cols = s.cols ∧ t.rows = s.rows ∧ t.startPred = s.startPred ∧ t.srcSize = s.srcSize ∧ t.dstSize = s.dstSize ∧
    t.srcByteOrder = s.srcByteOrder

/-- The parameters, the source and the byte order are unchanged. -/
def SameParameters (s t : State) : Prop :=
  SameRegisters s t ∧ t.src = s.src

/-- The sample two bytes write in a byte order (R64). -/
def sampleValue (order : ByteOrder) (b0 b1 : Byte) : Nat :=
  match order with
  | .little => b0.toNat + 256 * b1.toNat
  | .big => 256 * b0.toNat + b1.toNat

end Sys2Proof.Claims

open Sys2Proof.Claims

/-- For every well-formed instruction, with every operand value its encoding admits, decode (encode i) is i: symbols, ROM
words, CTRL, STATUS and RESULT words, and the operations in the notation of 30_encoding.md section 10. The frames of
the operations are the model's choice (log entry 13). -/
def Obligations.DecodeEncodeEveryInstruction : Prop :=
  ∀ i : Instr, i.WellFormed = true → decode (encode i) = .ok i

/-- If decode answers i for a frame f then encode i is f and i is well-formed: each instruction has one frame and no bit
of a frame is dropped. The frames of the operations (a name with its arguments, raise by its code) are the model's
notation (log entry 13), and that an appendBits frame of 32 bits or more does not decode is its choice (log entry 5). -/
def Obligations.EncodeDecodeEveryFrame : Prop :=
  ∀ (f : Frame) (i : Instr), decode f = .ok i → encode i = f ∧ i.WellFormed = true

/-- For every class c up to 14 and every data value of c bits, reading the symbol's bits followed by any rest gives that
symbol and exactly the rest; its length is the code length plus c. -/
def Obligations.SymbolBoundariesAreFound : Prop :=
  ∀ (c d : Nat) (rest : List Bool), c ≤ 14 → d < 2 ^ c →
    ∃ i : Instr, symInstr c d = some i ∧ encode i = .bits .sym (symBits c d) ∧
      (symBits c d).length = (codeBits c).length + c ∧
      decodeSym (symBits c d ++ rest) = .ok (i, rest)

/-- For every bit string of at least 8 bits there is exactly one class up to 14 whose code is a prefix of it: the codes
are prefix-free and complete. -/
def Obligations.EveryStreamBeginsWithOneCode : Prop :=
  ∀ b : List Bool, 8 ≤ b.length →
    ∃ c : Nat, c ≤ 14 ∧ codeBits c <+: b ∧ ∀ c' : Nat, c' ≤ 14 → codeBits c' <+: b → c' = c

/-- One symbol of a short and one of a long code, a ROM word, a CTRL word with reserved bits set, a STATUS word, a RESULT
sentinel and the call appendBits(14, 0x2AAA) decode to their rows, and appendBits of 32 bits does not decode. That an
operation is a call by name is the model's notation (log entry 13), and the refusal is its choice (log entry 5). -/
def Obligations.SpecWordsDecodeToTheirRows : Prop :=
  decode (.bits .sym [true, true, false, false, false, true, false, false]) = .ok (.sym4 0b0100#4) ∧
  decode (.bits .sym [false, false, true, false, true, true, true, true, true]) = .ok (.sym7 0b1011111#7) ∧
  decode (.bits .rom [true, false, false, false, true, true, true, true, true, true, true, false]) = .ok .rom13 ∧
  decode (.bits .ctrl (natBits 32 0xFFFFFFFF)) = .ok (.ctrlStart 0x7FFFFFFF#31) ∧
  decode (.bits .status (natBits 32 0xB)) = .ok .statusErrNoHuff ∧
  decode (.bits .result (natBits 64 0xFFFFFFFFFFFFFFFD)) = .ok .resultDstSmall ∧
  decode (.call .appendBits [14, 0x2AAA]) = .ok (.appendBits 14 0x2AAA) ∧
  decode (.call .appendBits [32, 0]) = .error .appendCount

/-- When the next action is a frame that decodes to i, a write of CTRL, or the reset pin, the step is exec of that
instruction on the state with the action taken off the list. The list of actions is the model's choice (log entry 7). -/
def Obligations.StepRunsTheDecodedInstruction : Prop :=
  ∀ (s : State) (rest : List Action),
    (∀ (f : Frame) (i : Instr), s.pending = .frame f :: rest → decode f = .ok i →
      step s = exec i { s with pending := rest }) ∧
    (∀ v : U64, s.pending = .hostWrite 0 v :: rest →
      step s = exec (decodeCtrl (v.setWidth 32)) { s with pending := rest }) ∧
    (s.pending = .resetPin :: rest → step s = exec .reset { s with pending := rest })

/-- With nothing pending, or with the core's turn next, the step is exec of the sequencer step of the phase: CHECK_SRC,
INIT, ROW_CHECK, PIXEL or FINAL_FLUSH; in IDLE, DONE and ERROR the state does not change. -/
def Obligations.StepTakesTheSequencersStep : Prop :=
  ∀ s t : State, ((s.pending = [] ∧ t = s) ∨ ∃ rest, s.pending = .core :: rest ∧ t = { s with pending := rest }) →
    step s =
      match s.phase with
      | .idle => .next t
      | .checkSrc => exec .checkSrc t
      | .init => exec .init t
      | .rowCheck => exec .rowCheck t
      | .pixel => exec .pixel t
      | .finalFlush => exec .finalFlush t
      | .done => .next t
      | .error => .next t

/-- For each of the fifteen symbol rows, with every data field: if the accumulator is clean and a word that fills fits
below DST_SIZE, exec gives a next state whose stream is the old stream followed by the row's pattern, code first; the
writer moves by the pattern's length, at most one word is written, at cursor, and every other byte and register is
unchanged. That a symbol row appends itself is the model's choice (log entry 9). -/
def Obligations.SymbolAppendsItsPattern : Prop :=
  ∀ (i : Instr) (bits : List Bool) (s : State), symbolPattern i = some bits → AccClean s → Fits s bits.length →
    ∃ t : State, exec i s = .next t ∧ streamBits t = streamBits s ++ bits ∧ AccClean t ∧ OnlyWriter s t ∧
      WriterMoved s t bits.length

/-- For c below 32 and any v, from a clean accumulator and with room for a word that fills: exec gives a next state whose
stream is the old one followed by the low c bits of v, bit c-1 first; only the writer moves, by c bits. -/
def Obligations.AppendBitsExtendsTheStream : Prop :=
  ∀ (c v : Nat) (s : State), c < 32 → AccClean s → Fits s c →
    ∃ t : State, exec (.appendBits c v) s = .next t ∧ streamBits t = streamBits s ++ natBits c v ∧ AccClean t ∧
      OnlyWriter s t ∧ WriterMoved s t c

/-- From a clean accumulator, with f = v mod 2^c: if nbits + c < 32 then acc becomes acc + f * 2^(32 - nbits - c); else
the four bytes at cursor are the big-endian bytes of acc + f / 2^r with r = nbits + c - 32, and acc becomes (f mod
2^r) * 2^(32 - r), which is 0 for r = 0. -/
def Obligations.AppendBitsComputesAcc : Prop :=
  ∀ (c v : Nat) (s : State), c < 32 → AccClean s → Fits s c →
    ∃ t : State, exec (.appendBits c v) s = .next t ∧
      if s.nbits.toNat + c < 32 then
        t.acc.toNat = s.acc.toNat + v % 2 ^ c * 2 ^ (32 - s.nbits.toNat - c)
      else
        t.acc.toNat = v % 2 ^ (s.nbits.toNat + c - 32) * 2 ^ (32 - (s.nbits.toNat + c - 32)) % 2 ^ 32 ∧
          ∀ k : Nat, k < 4 →
            (t.dst.read (s.cursor.toNat + k)).map BitVec.toNat =
              some ((s.acc.toNat + v % 2 ^ c / 2 ^ (s.nbits.toNat + c - 32)) / 2 ^ (24 - 8 * k) % 256)

/-- appendBits(0, v) gives the state unchanged for every v and every state. -/
def Obligations.AppendZeroBitsDoesNothing : Prop :=
  ∀ (v : Nat) (s : State), exec (.appendBits 0 v) s = .next s

/-- For c1 + c2 at most 31, appendBits(c1, v1) followed by appendBits(c2, v2) has the same outcome, state and all, as one
append of the c1 + c2 bits low(c1, v1) ++ low(c2, v2), from every state, also where the word does not fit. -/
def Obligations.AppendsMayBeCutAnywhere : Prop :=
  ∀ (c1 c2 v1 v2 : Nat) (s : State), c1 + c2 ≤ 31 →
    andThen (exec (.appendBits c1 v1) s) (exec (.appendBits c2 v2)) =
      exec (.appendBits (c1 + c2) (v1 % 2 ^ c1 * 2 ^ c2 + v2 % 2 ^ c2)) s

/-- For c of 32 or more, the violated precondition, exec refuses with appendCount c, in every state. The spec gives such a
call no outcome and asks a model to refuse it (U1: "Treatment: refuse"). The refusal is the model's (log entry 5). -/
def Obligations.AppendBitsRefusesAWholeWord : Prop :=
  ∀ (c v : Nat) (s : State), 32 ≤ c → exec (.appendBits c v) s = .refused (.appendCount c)

/-- With nbits = 0 flush changes nothing. With nbits > 0 and room it writes the four big-endian bytes of acc at cursor,
advances cursor by 4 and count by 4 - floor((32 - nbits) / 8), which is ceil(nbits / 8), and empties the accumulator;
every other byte and register is unchanged. -/
def Obligations.FlushWritesThePaddedWord : Prop :=
  ∀ s : State,
    (s.nbits = 0#5 → exec .flush s = .next s) ∧
    (s.nbits ≠ 0#5 → HasRoom s →
      ∃ t : State, exec .flush s = .next t ∧ OnlyWriter s t ∧ t.acc = 0#32 ∧ t.nbits = 0#5 ∧
        t.cursor.toNat = s.cursor.toNat + 4 ∧
        t.count = s.count + BitVec.ofNat 64 ((s.nbits.toNat + 7) / 8) ∧
        (∀ k : Nat, k < 4 → (t.dst.read (s.cursor.toNat + k)).map BitVec.toNat =
          some (s.acc.toNat / 2 ^ (24 - 8 * k) % 256)) ∧
        ∀ a : Nat, (a < s.cursor.toNat ∨ s.cursor.toNat + 4 ≤ a) → t.dst.read a = s.dst.read a)

/-- Without room for a word: appendBits faults when its bits fill the accumulator, a symbol row likewise, PIXEL faults
when its delta has a code and the symbol's bits fill the accumulator, and flush and FINAL_FLUSH fault when bits are
held. The spec asks a model to treat such a write as a fault (log entry 4). That a symbol row appends itself is the
model's choice (log entry 9). encode faults where the sequencer does, which is another statement. -/
def Obligations.WordWritePastDstSizeFaults : Prop :=
  ∀ s : State, ¬ HasRoom s →
    (∀ c v : Nat, c < 32 → 32 ≤ s.nbits.toNat + c → exec (.appendBits c v) s = .fault .dstOverrun) ∧
    (∀ (i : Instr) (bits : List Bool), symbolPattern i = some bits → 32 ≤ s.nbits.toNat + bits.length →
      exec i s = .fault .dstOverrun) ∧
    ((pixelDelta s).natAbs ≤ 8191 →
      32 ≤ s.nbits.toNat + (symBits (classOf (pixelDelta s)) (dataValue (pixelDelta s))).length →
      exec .pixel s = .fault .dstOverrun) ∧
    (s.nbits ≠ 0#5 → exec .flush s = .fault .dstOverrun ∧ exec .finalFlush s = .fault .dstOverrun)

/-- ROM0 to ROM14 return the length and code of their class, ROM15 returns NotFound, and nothing else changes. That a ROM
row is the read of its address is the model's choice (log entry 10). -/
def Obligations.RomRowsReadTheTable : Prop :=
  ∀ s : State,
    exec .rom0 s = .next { s with out := .entry 6 0x3e } ∧
    exec .rom1 s = .next { s with out := .entry 7 0x7e } ∧
    exec .rom2 s = .next { s with out := .entry 6 0x3d } ∧
    exec .rom3 s = .next { s with out := .entry 5 0x1c } ∧
    exec .rom4 s = .next { s with out := .entry 4 0x0c } ∧
    exec .rom5 s = .next { s with out := .entry 3 0x04 } ∧
    exec .rom6 s = .next { s with out := .entry 3 0x02 } ∧
    exec .rom7 s = .next { s with out := .entry 2 0x00 } ∧
    exec .rom8 s = .next { s with out := .entry 3 0x03 } ∧
    exec .rom9 s = .next { s with out := .entry 3 0x05 } ∧
    exec .rom10 s = .next { s with out := .entry 4 0x0d } ∧
    exec .rom11 s = .next { s with out := .entry 5 0x1d } ∧
    exec .rom12 s = .next { s with out := .entry 6 0x3c } ∧
    exec .rom13 s = .next { s with out := .entry 8 0xfe } ∧
    exec .rom14 s = .next { s with out := .entry 8 0xff } ∧
    exec .rom15 s = .next { s with out := .notFound }

/-- lookup(c) returns (len[c], code[c]) of the literal table for each c up to 14 and NotFound for every larger c; nothing
else changes. Where the value is returned is the model's choice (log entry 8). -/
def Obligations.LookupIsTheLiteralTable : Prop :=
  ∀ s : State,
    exec (.lookup 0) s = .next { s with out := .entry 6 0x3e } ∧
    exec (.lookup 1) s = .next { s with out := .entry 7 0x7e } ∧
    exec (.lookup 2) s = .next { s with out := .entry 6 0x3d } ∧
    exec (.lookup 3) s = .next { s with out := .entry 5 0x1c } ∧
    exec (.lookup 4) s = .next { s with out := .entry 4 0x0c } ∧
    exec (.lookup 5) s = .next { s with out := .entry 3 0x04 } ∧
    exec (.lookup 6) s = .next { s with out := .entry 3 0x02 } ∧
    exec (.lookup 7) s = .next { s with out := .entry 2 0x00 } ∧
    exec (.lookup 8) s = .next { s with out := .entry 3 0x03 } ∧
    exec (.lookup 9) s = .next { s with out := .entry 3 0x05 } ∧
    exec (.lookup 10) s = .next { s with out := .entry 4 0x0d } ∧
    exec (.lookup 11) s = .next { s with out := .entry 5 0x1d } ∧
    exec (.lookup 12) s = .next { s with out := .entry 6 0x3c } ∧
    exec (.lookup 13) s = .next { s with out := .entry 8 0xfe } ∧
    exec (.lookup 14) s = .next { s with out := .entry 8 0xff } ∧
    ∀ c : Nat, 14 < c → exec (.lookup c) s = .next { s with out := .notFound }

/-- START, and a write of CTRL with bit 0 set whatever bits 31:1 are: in IDLE, DONE and ERROR STATUS becomes BUSY without
error, RESULT 0 and the phase CHECK_SRC; in the other phases nothing changes. Nothing else changes in either case, but
that the record of the buffers the model keeps for a pass begins anew (log entry 15). -/
def Obligations.StartBeginsAPassOnlyAtRest : Prop :=
  ∀ (s : State) (reserved : BitVec 31),
    exec (.ctrlStart reserved) s = exec .start s ∧
    exec .start s = .next
      (if s.phase = .idle ∨ s.phase = .done ∨ s.phase = .error then
        { s with
          statusState := 1#2, statusErr := 0#2, result := 0#64, phase := .checkSrc, srcPast := [], dstBefore := s.dst }
      else s)

/-- CTRL.NOP with any bits 31:1 gives the state unchanged, in every state. -/
def Obligations.CtrlWithoutStartDoesNothing : Prop :=
  ∀ (s : State) (reserved : BitVec 31), exec (.ctrlNop reserved) s = .next s

/-- STATUS reads as STATE in bits 1:0, ERR in bits 3:2 and 0 above; each of the six rows returns that word and whether it
is the row's code, and nothing else changes. The comparison is the model's choice (log entry 11). -/
def Obligations.StatusRowsReadStatus : Prop :=
  ∀ s : State,
    (statusWord s).toNat = s.statusState.toNat + 4 * s.statusErr.toNat ∧
    exec .statusIdle s = .next { s with out := .regPoll 1 ((statusWord s).setWidth 64) (decide ((statusWord s).toNat = 0x0)) } ∧
    exec .statusBusy s = .next { s with out := .regPoll 1 ((statusWord s).setWidth 64) (decide ((statusWord s).toNat = 0x1)) } ∧
    exec .statusDone s = .next { s with out := .regPoll 1 ((statusWord s).setWidth 64) (decide ((statusWord s).toNat = 0x2)) } ∧
    exec .statusErrSrcSmall s = .next { s with out := .regPoll 1 ((statusWord s).setWidth 64) (decide ((statusWord s).toNat = 0x7)) } ∧
    exec .statusErrNoHuff s = .next { s with out := .regPoll 1 ((statusWord s).setWidth 64) (decide ((statusWord s).toNat = 0xB)) } ∧
    exec .statusErrDstSmall s = .next { s with out := .regPoll 1 ((statusWord s).setWidth 64) (decide ((statusWord s).toNat = 0xF)) }

/-- Each RESULT row returns the 64 bits of RESULT and whether their two's complement value is -1, -2, -3 or the row's non-
negative count; nothing else changes. The comparison is the model's choice (log entry 11). -/
def Obligations.ResultRowsReadResult : Prop :=
  ∀ s : State,
    exec .resultSrcSmall s = .next { s with out := .regPoll 7 s.result (decide (s.result.toInt = -1)) } ∧
    exec .resultNoHuff s = .next { s with out := .regPoll 7 s.result (decide (s.result.toInt = -2)) } ∧
    exec .resultDstSmall s = .next { s with out := .regPoll 7 s.result (decide (s.result.toInt = -3)) } ∧
    ∀ n : BitVec 63, exec (.resultCount n) s =
      .next { s with out := .regPoll 7 s.result (decide (s.result.toInt = (n.toNat : Int))) }

/-- CTRL reads 0, STATUS its word, registers 2 to 7 their values zero-extended, numbers 8 and above 0, in every phase. -/
def Obligations.HostReadsHaveNoSideEffect : Prop :=
  ∀ (s : State) (reg : Nat) (rest : List Action), s.pending = .hostRead reg :: rest →
    ∃ v : U64, step s = .next { s with pending := rest, out := .regRead reg v } ∧
      (reg = 0 → v = 0#64) ∧ (reg = 1 → v.toNat = s.statusState.toNat + 4 * s.statusErr.toNat) ∧
      (reg = 2 → v.toNat = s.cols.toNat) ∧ (reg = 3 → v.toNat = s.rows.toNat) ∧
      (reg = 4 → v.toNat = s.startPred.toNat) ∧ (reg = 5 → v.toNat = s.srcSize.toNat) ∧
      (reg = 6 → v.toNat = s.dstSize.toNat) ∧ (reg = 7 → v = s.result) ∧ (8 ≤ reg → v = 0#64)

/-- While BUSY every host write of a register other than CTRL is ignored; otherwise registers 2 to 6 take the low bits of
the value and every other number but CTRL ignores it. -/
def Obligations.HostWritesReachOnlyParameters : Prop :=
  ∀ (s : State) (reg : Nat) (v : U64) (rest : List Action), s.pending = .hostWrite reg v :: rest → reg ≠ 0 →
    step s = .next
      (if s.statusState = 1#2 then { s with pending := rest }
       else if reg = 2 then { s with pending := rest, cols := v.setWidth 32 }
       else if reg = 3 then { s with pending := rest, rows := v.setWidth 32 }
       else if reg = 4 then { s with pending := rest, startPred := v.setWidth 16 }
       else if reg = 5 then { s with pending := rest, srcSize := v.setWidth 32 }
       else if reg = 6 then { s with pending := rest, dstSize := v.setWidth 32 }
       else { s with pending := rest })

/-- A host store always goes on. In SRC the byte reads back and every other byte is as before; during a pass what it
overwrites is recorded, since the pass may still read it. In DST every other byte is as before; outside a pass, and
beyond the words of the pass, the byte reads back; under a word of the pass the buffer holds the byte or what was
there. Nothing else changes. R240 forbids the stores during a pass without enforcing it and U4 leaves the value open:
the two outcomes are the model's choice (log entry 15). -/
def Obligations.HostStoresPlaceOneByte : Prop :=
  ∀ (s : State) (space : Space) (off : Nat) (b : Byte) (rest : List Action),
    s.pending = .hostStore space off b :: rest →
    ∃ t : State, step s = .next t ∧
      match space with
      | .src =>
        t.src.read off = some b ∧ (∀ a : Nat, a ≠ off → t.src.read a = s.src.read a) ∧
          (s.statusState ≠ 1#2 → t = { s with pending := rest, src := t.src }) ∧
          (s.statusState = 1#2 → t = { s with
            pending := rest, src := t.src, srcPast := (off, srcByte s off) :: s.srcPast, freeCtr := s.freeCtr + 1 })
      | .dst =>
        (∀ a : Nat, a ≠ off → t.dst.read a = s.dst.read a) ∧
          (s.statusState ≠ 1#2 → t.dst.read off = some b ∧ t = { s with pending := rest, dst := t.dst }) ∧
          (s.statusState = 1#2 →
            (t.dst.read off = some b ∨ (off < wordsEnd s ∧ t.dst.read off = some (dstByte s off))) ∧
            t.dstBefore.read off = some b ∧ (∀ a : Nat, a ≠ off → t.dstBefore.read a = s.dstBefore.read a) ∧
            t = { s with
              pending := rest, dst := t.dst, dstBefore := t.dstBefore, freeCtr := s.freeCtr + 1 })

/-- predict(row, col) returns seed[row mod 2][col] for col 0 and 1 and running[col mod 2] from column 2 on, writes no
register and does not fail. (R151.) -/
def Obligations.PredictReadsTheRightRegister : Prop :=
  ∀ (s : State) (row col : Nat),
    exec (.predict row col) s = .next { s with
      out := .predicted (
        if col = 0 then (if row % 2 = 0 then s.seed00 else s.seed10)
        else if col = 1 then (if row % 2 = 0 then s.seed01 else s.seed11)
        else if col % 2 = 0 then s.running0 else s.running1) }

/-- After observe(row, col, pixel) the seed of the row's parity at columns 0 and 1, and the running register of the
column's parity, hold pixel; every other register and both buffers are unchanged; exec gives a next state for every
operand. -/
def Obligations.ObserveMovesTheSampleIn : Prop :=
  ∀ (s : State) (row col : Nat) (pixel : U16),
    ∃ t : State, exec (.observe row col pixel) s = .next t ∧
      t = { sampleMovedIn s row col pixel with out := t.out }

/-- With d = pixel - predicted, exact: d = 0 gives class 0; 1 <= |d| <= 8191 gives the class c with 2^(c-2) <= |d| <
2^(c-1) and the data value |d| for d > 0, 2^c - 1 - |d| for d < 0; |d| >= 8192 gives ClassOutOfRange. -/
def Obligations.ObserveReturnsClassAndData : Prop :=
  ∀ (s : State) (row col : Nat) (pixel : U16) (d : Int),
    d = (pixel.toNat : Int) - ((predictAt s row col).toNat : Int) →
    ∃ t : State, exec (.observe row col pixel) s = .next t ∧
      (d = 0 → t.out = .observed 0 0) ∧
      (d ≠ 0 → d.natAbs ≤ 8191 →
        ∃ c : Nat, 2 ≤ c ∧ c ≤ 14 ∧ 2 ^ (c - 2) ≤ d.natAbs ∧ d.natAbs < 2 ^ (c - 1) ∧
          t.out = .observed c (if 0 ≤ d then d.natAbs else 2 ^ c - 1 - d.natAbs)) ∧
      (8192 ≤ d.natAbs → t.out = .classOutOfRange)

/-- For every a, a < 2^(bitlen a), and a < 2^k implies bitlen a <= k; so bitlen 0 = 0, and bitlen of 8191, 8192, 16383 and
65535 are 13, 14, 14 and 16. (R8.) -/
def Obligations.BitlenIsTheSmallestWidth : Prop :=
  (∀ a : Nat, a < 2 ^ bitlen a ∧ ∀ k : Nat, a < 2 ^ k → bitlen a ≤ k) ∧
  (∀ a : Nat, 1 ≤ a → bitlen a = Nat.log2 a + 1) ∧
  bitlen 0 = 0 ∧ bitlen 1 = 1 ∧ bitlen 2 = 2 ∧ bitlen 3 = 2 ∧
  (∀ a : Nat, 4 ≤ a → a ≤ 7 → bitlen a = 3) ∧
  bitlen 8191 = 13 ∧ bitlen 8192 = 14 ∧ bitlen 16383 = 14 ∧ bitlen 65535 = 16

/-- For every delta: class 0 exactly for 0, else bitlen(|d|) + 1; class c >= 2 exactly for 2^(c-2) <= |d| <= 2^(c-1) - 1;
class 1 never; at most 17 for |d| up to 65535. (R153.) -/
def Obligations.ClassIsTheBitLengthPlusOne : Prop :=
  ∀ d : Int,
    (d = 0 → classOf d = 0) ∧ (d ≠ 0 → classOf d = bitlen d.natAbs + 1) ∧
    (∀ c : Nat, 2 ≤ c → (classOf d = c ↔ 2 ^ (c - 2) ≤ d.natAbs ∧ d.natAbs ≤ 2 ^ (c - 1) - 1)) ∧
    classOf d ≠ 1 ∧ (d.natAbs ≤ 65535 → classOf d ≤ 17)

/-- For d not 0 with a = |d| and c its class: the value is a for d > 0 and (2^c - 1) - a for d < 0, at most 2^c - 1; a
positive d gives 2^(c-2) <= value <= 2^(c-1) - 1, a negative one 2^(c-1) <= value <= 2^c - 1 - 2^(c-2), so bit c-1 is
the sign; for a negative d the value is the bitwise complement of a within c bits; a zero delta has class 0, no data
bit. (R94.) -/
def Obligations.DataFieldShowsTheSign : Prop :=
  (∀ d : Int, d ≠ 0 →
    dataValue d = (if 0 ≤ d then d.natAbs else 2 ^ classOf d - 1 - d.natAbs) ∧
    dataValue d ≤ 2 ^ classOf d - 1 ∧
    (0 < d → 2 ^ (classOf d - 2) ≤ dataValue d ∧ dataValue d ≤ 2 ^ (classOf d - 1) - 1) ∧
    (d < 0 → 2 ^ (classOf d - 1) ≤ dataValue d ∧ dataValue d ≤ 2 ^ classOf d - 1 - 2 ^ (classOf d - 2)) ∧
    ((dataValue d).testBit (classOf d - 1) = decide (d < 0)) ∧
    (d < 0 → ∀ k : Nat, k < classOf d → (dataValue d).testBit k = !(d.natAbs.testBit k))) ∧
  classOf 0 = 0 ∧ natBits (classOf 0) (dataValue 0) = []

/-- For every d with |d| <= 8191, of class c and data value v: class 0 means d = 0; for c > 0, v < 2^(c-1) means d = v and
otherwise d = v - (2^c - 1). (R95.) -/
def Obligations.DecodingLawRecoversTheDelta : Prop :=
  ∀ (d : Int) (c v : Nat), d.natAbs ≤ 8191 → c = classOf d → v = dataValue d →
    (c = 0 → d = 0) ∧ (0 < c → v < 2 ^ (c - 1) → d = (v : Int)) ∧
    (0 < c → 2 ^ (c - 1) ≤ v → d = (v : Int) - ((2 : Int) ^ c - 1))

/-- If bytes 2i and 2i+1 of SRC hold b0 and b1, and the host has stored neither during the pass, sample i is b0 + 256 * b1
in little-endian order and 256 * b0 + b1 in big-endian order. -/
def Obligations.SampleBytesFollowTheParameter : Prop :=
  ∀ (s : State) (i : Nat) (b0 b1 : Byte), s.src.read (2 * i) = some b0 → s.src.read (2 * i + 1) = some b1 →
    (∀ e ∈ s.srcPast, e.1 ≠ 2 * i ∧ e.1 ≠ 2 * i + 1) → (sampleAt s i).toNat = sampleValue s.srcByteOrder b0 b1

/-- If SRC_SIZE < ROWS * COLS * 2, computed without wrap, CHECK_SRC takes the abort SourceBufferTooSmall: STATUS.ERR 1,
RESULT -1, ERROR; otherwise it goes to INIT; nothing else changes. -/
def Obligations.CheckSrcComparesExactly : Prop :=
  ∀ s : State,
    (s.rows.toNat * s.cols.toNat * 2 ≤ s.srcSize.toNat → exec .checkSrc s = .next { s with phase := .init }) ∧
    (s.srcSize.toNat < s.rows.toNat * s.cols.toNat * 2 →
      exec .checkSrc s =
        .next { s with statusState := 3#2, statusErr := 1#2, result := 0xFFFFFFFFFFFFFFFF#64, phase := .error })

/-- After INIT the six predictor registers hold START_PRED, acc, nbits, cursor, count, row and col are 0, the phase is
ROW_CHECK, and nothing else changes. (R174.) -/
def Obligations.InitWritesEveryDatapathRegister : Prop :=
  ∀ s : State, exec .init s = .next
    { s with
      seed00 := s.startPred, seed01 := s.startPred, seed10 := s.startPred, seed11 := s.startPred
      running0 := s.startPred, running1 := s.startPred
      acc := 0#32, nbits := 0#5, cursor := 0#64, count := 0#64
      row := 0#32, col := 0#32, phase := .rowCheck }

/-- row = ROWS goes to FINAL_FLUSH without a check; otherwise DST_SIZE < count + 1048576 takes the abort
OutputBufferTooSmall; otherwise COLS = 0 counts the row and stays, and COLS > 0 enters the row at column 0. Nothing
else changes. -/
def Obligations.RowCheckAppliesTheMargin : Prop :=
  ∀ s : State,
    (s.row = s.rows → exec .rowCheck s = .next { s with phase := .finalFlush }) ∧
    (s.row ≠ s.rows → s.dstSize.toNat < s.count.toNat + 1048576 →
      exec .rowCheck s =
        .next { s with statusState := 3#2, statusErr := 3#2, result := 0xFFFFFFFFFFFFFFFD#64, phase := .error }) ∧
    (s.row ≠ s.rows → s.count.toNat + 1048576 ≤ s.dstSize.toNat → s.cols = 0#32 →
      exec .rowCheck s = .next { s with row := s.row + 1#32, phase := .rowCheck }) ∧
    (s.row ≠ s.rows → s.count.toNat + 1048576 ≤ s.dstSize.toNat → s.cols ≠ 0#32 →
      exec .rowCheck s = .next { s with col := 0#32, phase := .pixel })

/-- If |delta| <= 8191, the accumulator is clean and a word that fills fits: exec gives a next state whose stream is the
old one followed by the symbol of the delta's class and data value; the sample is in the registers of its position;
the position is the next column or the next row; at most one word is written, at cursor; nothing else changes. -/
def Obligations.PixelAppendsItsSymbol : Prop :=
  ∀ s : State, (pixelDelta s).natAbs ≤ 8191 → AccClean s →
    Fits s (symBits (classOf (pixelDelta s)) (dataValue (pixelDelta s))).length →
    ∃ t : State, exec .pixel s = .next t ∧
      streamBits t = streamBits s ++ symBits (classOf (pixelDelta s)) (dataValue (pixelDelta s)) ∧
      AccClean t ∧ WriterMoved s t (symBits (classOf (pixelDelta s)) (dataValue (pixelDelta s))).length ∧
      (if s.col.toNat + 1 < s.cols.toNat then t.col.toNat = s.col.toNat + 1 ∧ t.row = s.row ∧ t.phase = .pixel
       else t.col = s.col ∧ t.row = s.row + 1#32 ∧ t.phase = .rowCheck) ∧
      t = { sampleMovedIn s s.row.toNat s.col.toNat (sampleAt s (s.row.toNat * s.cols.toNat + s.col.toNat)) with
        acc := t.acc, nbits := t.nbits, cursor := t.cursor, count := t.count, dst := t.dst
        row := t.row, col := t.col, phase := t.phase }

/-- If |delta| >= 8192: STATUS.STATE is ERROR, STATUS.ERR 2, RESULT -2, the phase ERROR; the predictor update is made; no
bit is appended, no byte written and nothing else changes. -/
def Obligations.PixelOutOfRangeAborts : Prop :=
  ∀ s : State, 8192 ≤ (pixelDelta s).natAbs →
    exec .pixel s = .next
      { sampleMovedIn s s.row.toNat s.col.toNat (sampleAt s (s.row.toNat * s.cols.toNat + s.col.toNat)) with
        statusState := 3#2, statusErr := 2#2, result := 0xFFFFFFFFFFFFFFFE#64, phase := .error }

/-- With a clean accumulator and nothing held or room for a word: exec gives a next state in DONE with STATUS.ERR
unchanged; DST below the new cursor is the stream followed by the zero pad bits; RESULT and count are the old count
plus ceil(nbits / 8); every byte outside the word is unchanged, as is everything else. -/
def Obligations.FinalFlushReportsTheCount : Prop :=
  ∀ s : State, AccClean s → (s.nbits = 0#5 ∨ HasRoom s) →
    ∃ t : State, exec .finalFlush s = .next t ∧ t.phase = .done ∧ t.statusState = 2#2 ∧ t.result = t.count ∧
      t.count = s.count + BitVec.ofNat 64 ((s.nbits.toNat + 7) / 8) ∧
      (if s.nbits = 0#5 then t.cursor = s.cursor else t.cursor.toNat = s.cursor.toNat + 4) ∧
      t.nbits = 0#5 ∧ t.acc = 0#32 ∧
      dstBits t t.cursor.toNat = streamBits s ++ List.replicate ((32 - s.nbits.toNat) % 32) false ∧
      (∀ a : Nat, (a < s.cursor.toNat ∨ t.cursor.toNat ≤ a) → t.dst.read a = s.dst.read a) ∧
      t = { s with
        acc := t.acc, nbits := t.nbits, cursor := t.cursor, count := t.count, dst := t.dst
        statusState := t.statusState, result := t.result, phase := t.phase }

/-- raise E sets STATUS.ERR to 1, 2, 3 and RESULT to -1, -2, -3 for the three kinds in their order, STATUS.STATE and the
phase to ERROR, and changes nothing else. -/
def Obligations.RaiseTakesTheAbort : Prop :=
  ∀ (e : ErrKind) (s : State),
    ∃ t : State, exec (.raise e) s = .next t ∧
      t = { s with statusState := 3#2, statusErr := t.statusErr, result := t.result, phase := .error } ∧
      (e = .sourceBufferTooSmall → t.statusErr = 1#2 ∧ t.result.toInt = -1) ∧
      (e = .noHuffmanEntry → t.statusErr = 2#2 ∧ t.result.toInt = -2) ∧
      (e = .outputBufferTooSmall → t.statusErr = 3#2 ∧ t.result.toInt = -3)

/-- After RESET the phase is IDLE and STATUS, RESULT and the five parameter registers are 0; SRC and DST are not touched.
Nothing is said of the twelve datapath registers, which the spec leaves unspecified (log entry 2). -/
def Obligations.HardwareResetClearsTheHostSide : Prop :=
  ∀ s : State, ∃ t : State, exec .reset s = .next t ∧
    t = { s with
      phase := .idle, statusState := 0#2, statusErr := 0#2, result := 0#64
      cols := 0#32, rows := 0#32, startPred := 0#16, srcSize := 0#32, dstSize := 0#32
      seed00 := t.seed00, seed01 := t.seed01, seed10 := t.seed10, seed11 := t.seed11
      running0 := t.running0, running1 := t.running1, acc := t.acc, nbits := t.nbits
      cursor := t.cursor, count := t.count, row := t.row, col := t.col, freeCtr := t.freeCtr }

/-- State.reset has phase IDLE, STATUS 0, RESULT 0 and the five parameter registers 0. -/
def Obligations.ResetStateHoldsTheSpecsValues : Prop :=
  State.reset.phase = .idle ∧ statusWord State.reset = 0#32 ∧ State.reset.result = 0#64 ∧
  State.reset.cols = 0#32 ∧ State.reset.rows = 0#32 ∧ State.reset.startPred = 0#16 ∧
  State.reset.srcSize = 0#32 ∧ State.reset.dstSize = 0#32

/-- From any state with nothing pending: after RESET and START four core steps end in DONE with RESULT 0, STATUS.ERR 0 and
DST untouched, for every value the reset left in the datapath registers. -/
def Obligations.UnprogrammedPassAfterResetIsEmpty : Prop :=
  ∀ s : State, s.pending = [] →
    ∃ t u v : State, exec .reset s = .next t ∧ exec .start t = .next u ∧ runSteps 4 u = .next v ∧
      v.phase = .done ∧ v.statusState = 2#2 ∧ v.statusErr = 0#2 ∧ v.result = 0#64 ∧ v.dst = s.dst ∧ v.src = s.src

/-- Inv, MarginAgrees and PredictorAgrees hold of State.reset. -/
def Obligations.InvariantsHoldAtReset : Prop :=
  Inv State.reset ∧ MarginAgrees State.reset ∧ PredictorAgrees State.reset

/-- If Inv holds and step gives a next state, Inv holds there: STATUS and RESULT agree with the phase, both buffers stay
canonical, and in a pass SRC_SIZE has been found sufficient once CHECK_SRC is past, DST beyond the words of the pass
is as the host left it, acc is zero below the valid bits, cursor is a multiple of 4 within DST_SIZE, count = cursor,
and row and col stay inside the frame. The canonical form is the model's representation of the buffers (log entries 3
and 15), and cursor stays within DST_SIZE only because the model faults where it would not (log entry 4): the core
itself does not check it. -/
def Obligations.EveryStepKeepsTheInvariant : Prop :=
  ∀ s t : State, Inv s → step s = .next t → Inv t

/-- If Inv and MarginAgrees hold and step gives a next state, MarginAgrees holds there: since the margin check of the
current row at most 31 + 22 * col bits have been added to the greatest position that check allows. -/
def Obligations.EveryStepKeepsTheMargin : Prop :=
  ∀ s t : State, Inv s → MarginAgrees s → step s = .next t → MarginAgrees t

/-- In every state that meets Inv and MarginAgrees, with COLS <= 381298, step does not fault. -/
def Obligations.NarrowFramesNeverOverrun : Prop :=
  ∀ s : State, Inv s → MarginAgrees s → s.cols.toNat ≤ 381298 → step s ≠ .fault .dstOverrun

/-- If Inv and PredictorAgrees hold and step gives a next state, PredictorAgrees holds there; and at a PIXEL step of a
pass during which the host has not stored into SRC the predicted value is the sample two columns to the left, two rows
up for columns 0 and 1, or START_PRED in the first two rows. Once the host has stored into SRC during the pass nothing
is said of the predictor (R240). -/
def Obligations.PredictorHoldsTheNeighbours : Prop :=
  (∀ s t : State, Inv s → PredictorAgrees s → step s = .next t → PredictorAgrees t) ∧
  (∀ s : State, Inv s → PredictorAgrees s → s.phase = .pixel → s.srcPast = [] →
    predictAt s s.row.toNat s.col.toNat = neighbour s s.row.toNat s.col.toNat)

/-- If the agents act and step gives a next state in which STATUS or RESULT differ, then the action was the reset pin, or
a write of CTRL with bit 0 set in a rest phase, which leads to CHECK_SRC, or the core's own step of a pass, which led
to DONE or ERROR. -/
def Obligations.StatusChangesOnlyAtTheEndsOfAPass : Prop :=
  ∀ s t : State, AgentsOnly s → step s = .next t →
    (t.statusState = s.statusState ∧ t.statusErr = s.statusErr ∧ t.result = s.result) ∨
    s.pending.head? = some .resetPin ∨
    (restPhase s.phase = true ∧ t.phase = .checkSrc ∧
      ∃ v : U64, v.getLsbD 0 = true ∧ s.pending.head? = some (.hostWrite 0 v)) ∨
    (restPhase s.phase = false ∧ (s.pending = [] ∨ s.pending.head? = some .core) ∧
      (t.phase = .done ∨ t.phase = .error))

/-- If STATUS.STATE is BUSY, the agents act, the next action is not the reset pin and step gives a next state, then the
five parameter registers and the byte order are unchanged, and SRC too unless the action is a host store into it,
which R240 forbids the host but the hardware does not prevent (log entry 15). Reset does not touch SRC: that is
another statement. -/
def Obligations.ParametersAreFrozenDuringAPass : Prop :=
  ∀ s t : State, s.statusState = 1#2 → AgentsOnly s → s.pending.head? ≠ some .resetPin → step s = .next t →
    SameRegisters s t ∧
      (t.src = s.src ∨ ∃ (off : Nat) (b : Byte), s.pending.head? = some (.hostStore .src off b))

/-- With nothing pending, a step that gives a next state leaves SRC, the parameters, the byte order and the model's own
fields unchanged and every byte of DST outside cursor to cursor + 3. -/
def Obligations.CoreStepsWriteOnlyOneWord : Prop :=
  ∀ s t : State, s.pending = [] → step s = .next t →
    SameParameters s t ∧ t.out = s.out ∧ t.freeCtr = s.freeCtr ∧ t.srcPast = s.srcPast ∧
      t.dstBefore = s.dstBefore ∧ t.pending = [] ∧
      ∀ a : Nat, (a < s.cursor.toNat ∨ s.cursor.toNat + 4 ≤ a) → t.dst.read a = s.dst.read a

/-- From every rest state with nothing pending, exec of encode is what the sequencer reaches from START within ROWS * COLS
+ ROWS + 4 steps, a fault included: the loops of the function and the transition table compute the same pass, and
every pass ends. That encode begins with START and leaves row and col as the sequencer does is the model's reading
(log entry 12). -/
def Obligations.EncodeIsTheSequencersPass : Prop :=
  ∀ s : State, s.pending = [] → restPhase s.phase = true →
    ∃ n : Nat, n ≤ s.rows.toNat * s.cols.toNat + s.rows.toNat + 4 ∧ runSteps n (startPass s) = exec .encode s

/-- From a rest state, with SRC_SIZE sufficient, DST_SIZE at least ceil(22 * ROWS * COLS / 8) + 1048576 and every sample
within 8191 of the sample that predicts it: encode ends DONE with RESULT = ceil(B / 8), B the bits of the frame's
symbols; DST below 4 * ceil(B / 32) is those symbols in raster order followed by zero bits, every byte from there on
is untouched, and SRC and the parameters are unchanged. -/
def Obligations.EncodeWritesTheStreamOfTheFrame : Prop :=
  ∀ (s : State) (n B : Nat), restPhase s.phase = true → n = s.rows.toNat * s.cols.toNat →
    2 * n ≤ s.srcSize.toNat → (22 * n + 7) / 8 + 1048576 ≤ s.dstSize.toNat →
    (∀ i : Nat, i < n → (frameDelta s i).natAbs ≤ 8191) → B = (frameBits s n).length →
    ∃ t : State, exec .encode s = .next t ∧ t.phase = .done ∧ statusWord t = 2#32 ∧
      t.result.toNat = (B + 7) / 8 ∧
      dstBits t (4 * ((B + 31) / 32)) = frameBits s n ++ List.replicate (4 * ((B + 31) / 32) * 8 - B) false ∧
      (∀ a : Nat, 4 * ((B + 31) / 32) ≤ a → t.dst.read a = s.dst.read a) ∧ SameParameters s t

/-- With COLS <= 381298 encode gives a next state whose phase is DONE or ERROR when it starts from a rest phase; while a
pass executes it has no effect (log entry 12). -/
def Obligations.EncodeCompletesForNarrowFrames : Prop :=
  ∀ s : State,
    (restPhase s.phase = true → s.cols.toNat ≤ 381298 →
      ∃ t : State, exec .encode s = .next t ∧ (t.phase = .done ∨ t.phase = .error)) ∧
    (restPhase s.phase = false → exec .encode s = .next s)

/-- From a rest state: SRC_SIZE too small gives SourceBufferTooSmall whatever DST_SIZE is; otherwise with a row to encode
and DST_SIZE below 1 MiB the pass gives OutputBufferTooSmall whatever the samples are; in both cases DST is untouched. -/
def Obligations.EncodeErrorsComeInStepOrder : Prop :=
  ∀ s : State, restPhase s.phase = true →
    (s.srcSize.toNat < s.rows.toNat * s.cols.toNat * 2 →
      ∃ t : State, exec .encode s = .next t ∧ statusWord t = 0x7#32 ∧ t.result.toInt = -1 ∧ t.dst = s.dst) ∧
    (s.rows.toNat * s.cols.toNat * 2 ≤ s.srcSize.toNat → s.rows ≠ 0#32 → s.dstSize.toNat < 1048576 →
      ∃ t : State, exec .encode s = .next t ∧ statusWord t = 0xF#32 ∧ t.result.toInt = -3 ∧ t.dst = s.dst)

/-- For two rest states with the same parameters, buffers and byte order, whatever their datapath registers, STATUS and
RESULT hold: encode gives both the same phase, STATUS, RESULT and DST, or faults in both. -/
def Obligations.PassesShareNoHiddenState : Prop :=
  ∀ s t : State, SameInputs s t → restPhase s.phase = true → restPhase t.phase = true →
    (∃ u v : State, exec .encode s = .next u ∧ exec .encode t = .next v ∧ SameOutputs u v) ∨
    (exec .encode s = .fault .dstOverrun ∧ exec .encode t = .fault .dstOverrun)

/-- A host load always goes on and changes nothing but what was returned and, during a pass, the counter of free values.
It returns the byte SRC or DST holds. During a pass a load of DST under a word of the pass returns the byte the buffer
holds or the byte it held without the words: the host "may see any prefix of the words". That the choice is a free
value is the model's (log entry 15), and so is where the value is returned (log entry 8). -/
def Obligations.HostLoadsReturnTheByte : Prop :=
  ∀ (s : State) (space : Space) (off : Nat) (rest : List Action), s.pending = .hostLoad space off :: rest →
    ∃ v : Byte,
      match space with
      | .src =>
        step s = .next { s with pending := rest, out := .byteRead .src off v } ∧
          ∀ b : Byte, s.src.read off = some b → v = b
      | .dst =>
        (s.statusState ≠ 1#2 →
          step s = .next { s with pending := rest, out := .byteRead .dst off v } ∧
            ∀ b : Byte, s.dst.read off = some b → v = b) ∧
        (s.statusState = 1#2 →
          step s = .next { s with pending := rest, out := .byteRead .dst off v, freeCtr := s.freeCtr + 1 } ∧
            (v = dstByte s off ∨ (off < wordsEnd s ∧ v = dstBeforeByte s off)) ∧
            ∀ b : Byte, s.dst.read off = some b → wordsEnd s ≤ off → v = b)

/-- In every state each of the two bytes of a sample the core reads is the byte SRC holds or one that a host store during
the pass has overwritten at that offset. That no other value occurs is the model's reading of U4 (log entry 15). -/
def Obligations.DisturbedPassReadsOldOrNewBytes : Prop :=
  ∀ (s : State) (i : Nat), ∃ b0 b1 : Byte,
    (sampleAt s i).toNat = sampleValue s.srcByteOrder b0 b1 ∧
      (b0 = srcByte s (2 * i) ∨ (2 * i, b0) ∈ s.srcPast) ∧
      (b1 = srcByte s (2 * i + 1) ∨ (2 * i + 1, b1) ∈ s.srcPast)
end

