-- ==== Sys2Proof/Laws/Bits.lean ====
section
/-! SUPPORT. Bit strings and the numbers they write. -/

namespace Sys2Proof

@[simp] theorem natBits_length (n v : Nat) : (natBits n v).length = n := by
  induction n with
  | zero => rfl
  | succ n ih => simp [natBits, ih]

/-- A bit string of `n` bits writes a number below `2^n`. -/
theorem bitsNat_lt (b : List Bool) : bitsNat b < 2 ^ b.length := by
  induction b with
  | nil => simp [bitsNat]
  | cons x b ih =>
    have hp : 2 ^ (b.length + 1) = 2 * 2 ^ b.length := by rw [Nat.pow_succ]; omega
    cases x <;> simp only [bitsNat, List.length_cons, if_true, Bool.false_eq_true, if_false] <;> omega

/-- The low `n` bits of `v`, read back, are `v mod 2^n`. -/
theorem bitsNat_natBits (n v : Nat) : bitsNat (natBits n v) = v % 2 ^ n := by
  induction n with
  | zero => simp [natBits, bitsNat, Nat.mod_one]
  | succ n ih =>
    simp only [natBits, bitsNat, natBits_length, ih]
    have hb : v % 2 ^ (n + 1) = v % 2 ^ n + 2 ^ n * (v / 2 ^ n % 2) := Nat.mod_pow_succ
    have h2 : v / 2 ^ n % 2 = 0 ∨ v / 2 ^ n % 2 = 1 := by omega
    rw [Nat.testBit_eq_decide_div_mod_eq, hb]
    rcases h2 with h | h
    · simp [h]
    · simp [h]
      omega

/-- Only the low `n` bits of a number count for its `n`-bit string. -/
theorem natBits_mod (n v : Nat) : natBits n (v % 2 ^ n) = natBits n v := by
  have key : ∀ k m, k ≤ m → natBits k (v % 2 ^ m) = natBits k v := by
    intro k
    induction k with
    | zero => intro m _; rfl
    | succ k ih =>
      intro m hm
      simp only [natBits, ih m (by omega), Nat.testBit_mod_two_pow]
      simp [show k < m by omega]
  exact key n n (Nat.le_refl n)

/-- A bit string is the bit string of the number it writes. -/
theorem natBits_bitsNat (b : List Bool) : natBits b.length (bitsNat b) = b := by
  induction b with
  | nil => rfl
  | cons x b ih =>
    have hlt := bitsNat_lt b
    have hlow : natBits b.length (bitsNat (x :: b)) = b := by
      rw [← natBits_mod]
      have : bitsNat (x :: b) % 2 ^ b.length = bitsNat b := by
        cases x <;> simp [bitsNat, Nat.mod_eq_of_lt hlt]
      rw [this, ih]
    have htop : (bitsNat (x :: b)).testBit b.length = x := by
      cases x
      · simpa [bitsNat] using Nat.testBit_lt_two_pow hlt
      · simp only [bitsNat, if_true]
        rw [Nat.testBit_two_pow_add_eq, Nat.testBit_lt_two_pow hlt]
        rfl
    simp only [List.length_cons, natBits, hlow, htop]

end Sys2Proof
end

