-- ==== Sys2Proof/Laws/State.lean ====
section
/-! SUPPORT. One lemma per field per named update of State, and the named updates of a whole pass as record updates. -/

namespace Sys2Proof.Machine

/-! ## setStatus -/

@[simp] theorem State.setStatus_seed00 (s : State) (st err : BitVec 2) : (s.setStatus st err).seed00 = s.seed00 := rfl
@[simp] theorem State.setStatus_seed01 (s : State) (st err : BitVec 2) : (s.setStatus st err).seed01 = s.seed01 := rfl
@[simp] theorem State.setStatus_seed10 (s : State) (st err : BitVec 2) : (s.setStatus st err).seed10 = s.seed10 := rfl
@[simp] theorem State.setStatus_seed11 (s : State) (st err : BitVec 2) : (s.setStatus st err).seed11 = s.seed11 := rfl
@[simp] theorem State.setStatus_running0 (s : State) (st err : BitVec 2) : (s.setStatus st err).running0 = s.running0 := rfl
@[simp] theorem State.setStatus_running1 (s : State) (st err : BitVec 2) : (s.setStatus st err).running1 = s.running1 := rfl
@[simp] theorem State.setStatus_acc (s : State) (st err : BitVec 2) : (s.setStatus st err).acc = s.acc := rfl
@[simp] theorem State.setStatus_nbits (s : State) (st err : BitVec 2) : (s.setStatus st err).nbits = s.nbits := rfl
@[simp] theorem State.setStatus_cursor (s : State) (st err : BitVec 2) : (s.setStatus st err).cursor = s.cursor := rfl
@[simp] theorem State.setStatus_count (s : State) (st err : BitVec 2) : (s.setStatus st err).count = s.count := rfl
@[simp] theorem State.setStatus_phase (s : State) (st err : BitVec 2) : (s.setStatus st err).phase = s.phase := rfl
@[simp] theorem State.setStatus_row (s : State) (st err : BitVec 2) : (s.setStatus st err).row = s.row := rfl
@[simp] theorem State.setStatus_col (s : State) (st err : BitVec 2) : (s.setStatus st err).col = s.col := rfl
@[simp] theorem State.setStatus_statusState (s : State) (st err : BitVec 2) : (s.setStatus st err).statusState = st := rfl
@[simp] theorem State.setStatus_statusErr (s : State) (st err : BitVec 2) : (s.setStatus st err).statusErr = err := rfl
@[simp] theorem State.setStatus_cols (s : State) (st err : BitVec 2) : (s.setStatus st err).cols = s.cols := rfl
@[simp] theorem State.setStatus_rows (s : State) (st err : BitVec 2) : (s.setStatus st err).rows = s.rows := rfl
@[simp] theorem State.setStatus_startPred (s : State) (st err : BitVec 2) : (s.setStatus st err).startPred = s.startPred := rfl
@[simp] theorem State.setStatus_srcSize (s : State) (st err : BitVec 2) : (s.setStatus st err).srcSize = s.srcSize := rfl
@[simp] theorem State.setStatus_dstSize (s : State) (st err : BitVec 2) : (s.setStatus st err).dstSize = s.dstSize := rfl
@[simp] theorem State.setStatus_result (s : State) (st err : BitVec 2) : (s.setStatus st err).result = s.result := rfl
@[simp] theorem State.setStatus_src (s : State) (st err : BitVec 2) : (s.setStatus st err).src = s.src := rfl
@[simp] theorem State.setStatus_dst (s : State) (st err : BitVec 2) : (s.setStatus st err).dst = s.dst := rfl
@[simp] theorem State.setStatus_srcByteOrder (s : State) (st err : BitVec 2) : (s.setStatus st err).srcByteOrder = s.srcByteOrder := rfl
@[simp] theorem State.setStatus_out (s : State) (st err : BitVec 2) : (s.setStatus st err).out = s.out := rfl
@[simp] theorem State.setStatus_srcPast (s : State) (st err : BitVec 2) : (s.setStatus st err).srcPast = s.srcPast := rfl
@[simp] theorem State.setStatus_dstBefore (s : State) (st err : BitVec 2) : (s.setStatus st err).dstBefore = s.dstBefore := rfl
@[simp] theorem State.setStatus_freeCtr (s : State) (st err : BitVec 2) : (s.setStatus st err).freeCtr = s.freeCtr := rfl
@[simp] theorem State.setStatus_pending (s : State) (st err : BitVec 2) : (s.setStatus st err).pending = s.pending := rfl

/-! ## setSeed -/

@[simp] theorem State.setSeed_seed00 (s : State) (r k : Nat) (v : U16) : (s.setSeed r k v).seed00 = if r % 2 = 0 ∧ k = 0 then v else s.seed00 := rfl
@[simp] theorem State.setSeed_seed01 (s : State) (r k : Nat) (v : U16) : (s.setSeed r k v).seed01 = if r % 2 = 0 ∧ k ≠ 0 then v else s.seed01 := rfl
@[simp] theorem State.setSeed_seed10 (s : State) (r k : Nat) (v : U16) : (s.setSeed r k v).seed10 = if r % 2 ≠ 0 ∧ k = 0 then v else s.seed10 := rfl
@[simp] theorem State.setSeed_seed11 (s : State) (r k : Nat) (v : U16) : (s.setSeed r k v).seed11 = if r % 2 ≠ 0 ∧ k ≠ 0 then v else s.seed11 := rfl
@[simp] theorem State.setSeed_running0 (s : State) (r k : Nat) (v : U16) : (s.setSeed r k v).running0 = s.running0 := rfl
@[simp] theorem State.setSeed_running1 (s : State) (r k : Nat) (v : U16) : (s.setSeed r k v).running1 = s.running1 := rfl
@[simp] theorem State.setSeed_acc (s : State) (r k : Nat) (v : U16) : (s.setSeed r k v).acc = s.acc := rfl
@[simp] theorem State.setSeed_nbits (s : State) (r k : Nat) (v : U16) : (s.setSeed r k v).nbits = s.nbits := rfl
@[simp] theorem State.setSeed_cursor (s : State) (r k : Nat) (v : U16) : (s.setSeed r k v).cursor = s.cursor := rfl
@[simp] theorem State.setSeed_count (s : State) (r k : Nat) (v : U16) : (s.setSeed r k v).count = s.count := rfl
@[simp] theorem State.setSeed_phase (s : State) (r k : Nat) (v : U16) : (s.setSeed r k v).phase = s.phase := rfl
@[simp] theorem State.setSeed_row (s : State) (r k : Nat) (v : U16) : (s.setSeed r k v).row = s.row := rfl
@[simp] theorem State.setSeed_col (s : State) (r k : Nat) (v : U16) : (s.setSeed r k v).col = s.col := rfl
@[simp] theorem State.setSeed_statusState (s : State) (r k : Nat) (v : U16) : (s.setSeed r k v).statusState = s.statusState := rfl
@[simp] theorem State.setSeed_statusErr (s : State) (r k : Nat) (v : U16) : (s.setSeed r k v).statusErr = s.statusErr := rfl
@[simp] theorem State.setSeed_cols (s : State) (r k : Nat) (v : U16) : (s.setSeed r k v).cols = s.cols := rfl
@[simp] theorem State.setSeed_rows (s : State) (r k : Nat) (v : U16) : (s.setSeed r k v).rows = s.rows := rfl
@[simp] theorem State.setSeed_startPred (s : State) (r k : Nat) (v : U16) : (s.setSeed r k v).startPred = s.startPred := rfl
@[simp] theorem State.setSeed_srcSize (s : State) (r k : Nat) (v : U16) : (s.setSeed r k v).srcSize = s.srcSize := rfl
@[simp] theorem State.setSeed_dstSize (s : State) (r k : Nat) (v : U16) : (s.setSeed r k v).dstSize = s.dstSize := rfl
@[simp] theorem State.setSeed_result (s : State) (r k : Nat) (v : U16) : (s.setSeed r k v).result = s.result := rfl
@[simp] theorem State.setSeed_src (s : State) (r k : Nat) (v : U16) : (s.setSeed r k v).src = s.src := rfl
@[simp] theorem State.setSeed_dst (s : State) (r k : Nat) (v : U16) : (s.setSeed r k v).dst = s.dst := rfl
@[simp] theorem State.setSeed_srcByteOrder (s : State) (r k : Nat) (v : U16) : (s.setSeed r k v).srcByteOrder = s.srcByteOrder := rfl
@[simp] theorem State.setSeed_out (s : State) (r k : Nat) (v : U16) : (s.setSeed r k v).out = s.out := rfl
@[simp] theorem State.setSeed_srcPast (s : State) (r k : Nat) (v : U16) : (s.setSeed r k v).srcPast = s.srcPast := rfl
@[simp] theorem State.setSeed_dstBefore (s : State) (r k : Nat) (v : U16) : (s.setSeed r k v).dstBefore = s.dstBefore := rfl
@[simp] theorem State.setSeed_freeCtr (s : State) (r k : Nat) (v : U16) : (s.setSeed r k v).freeCtr = s.freeCtr := rfl
@[simp] theorem State.setSeed_pending (s : State) (r k : Nat) (v : U16) : (s.setSeed r k v).pending = s.pending := rfl

/-! ## setRunning -/

@[simp] theorem State.setRunning_seed00 (s : State) (c : Nat) (v : U16) : (s.setRunning c v).seed00 = s.seed00 := rfl
@[simp] theorem State.setRunning_seed01 (s : State) (c : Nat) (v : U16) : (s.setRunning c v).seed01 = s.seed01 := rfl
@[simp] theorem State.setRunning_seed10 (s : State) (c : Nat) (v : U16) : (s.setRunning c v).seed10 = s.seed10 := rfl
@[simp] theorem State.setRunning_seed11 (s : State) (c : Nat) (v : U16) : (s.setRunning c v).seed11 = s.seed11 := rfl
@[simp] theorem State.setRunning_running0 (s : State) (c : Nat) (v : U16) : (s.setRunning c v).running0 = if c % 2 = 0 then v else s.running0 := rfl
@[simp] theorem State.setRunning_running1 (s : State) (c : Nat) (v : U16) : (s.setRunning c v).running1 = if c % 2 ≠ 0 then v else s.running1 := rfl
@[simp] theorem State.setRunning_acc (s : State) (c : Nat) (v : U16) : (s.setRunning c v).acc = s.acc := rfl
@[simp] theorem State.setRunning_nbits (s : State) (c : Nat) (v : U16) : (s.setRunning c v).nbits = s.nbits := rfl
@[simp] theorem State.setRunning_cursor (s : State) (c : Nat) (v : U16) : (s.setRunning c v).cursor = s.cursor := rfl
@[simp] theorem State.setRunning_count (s : State) (c : Nat) (v : U16) : (s.setRunning c v).count = s.count := rfl
@[simp] theorem State.setRunning_phase (s : State) (c : Nat) (v : U16) : (s.setRunning c v).phase = s.phase := rfl
@[simp] theorem State.setRunning_row (s : State) (c : Nat) (v : U16) : (s.setRunning c v).row = s.row := rfl
@[simp] theorem State.setRunning_col (s : State) (c : Nat) (v : U16) : (s.setRunning c v).col = s.col := rfl
@[simp] theorem State.setRunning_statusState (s : State) (c : Nat) (v : U16) : (s.setRunning c v).statusState = s.statusState := rfl
@[simp] theorem State.setRunning_statusErr (s : State) (c : Nat) (v : U16) : (s.setRunning c v).statusErr = s.statusErr := rfl
@[simp] theorem State.setRunning_cols (s : State) (c : Nat) (v : U16) : (s.setRunning c v).cols = s.cols := rfl
@[simp] theorem State.setRunning_rows (s : State) (c : Nat) (v : U16) : (s.setRunning c v).rows = s.rows := rfl
@[simp] theorem State.setRunning_startPred (s : State) (c : Nat) (v : U16) : (s.setRunning c v).startPred = s.startPred := rfl
@[simp] theorem State.setRunning_srcSize (s : State) (c : Nat) (v : U16) : (s.setRunning c v).srcSize = s.srcSize := rfl
@[simp] theorem State.setRunning_dstSize (s : State) (c : Nat) (v : U16) : (s.setRunning c v).dstSize = s.dstSize := rfl
@[simp] theorem State.setRunning_result (s : State) (c : Nat) (v : U16) : (s.setRunning c v).result = s.result := rfl
@[simp] theorem State.setRunning_src (s : State) (c : Nat) (v : U16) : (s.setRunning c v).src = s.src := rfl
@[simp] theorem State.setRunning_dst (s : State) (c : Nat) (v : U16) : (s.setRunning c v).dst = s.dst := rfl
@[simp] theorem State.setRunning_srcByteOrder (s : State) (c : Nat) (v : U16) : (s.setRunning c v).srcByteOrder = s.srcByteOrder := rfl
@[simp] theorem State.setRunning_out (s : State) (c : Nat) (v : U16) : (s.setRunning c v).out = s.out := rfl
@[simp] theorem State.setRunning_srcPast (s : State) (c : Nat) (v : U16) : (s.setRunning c v).srcPast = s.srcPast := rfl
@[simp] theorem State.setRunning_dstBefore (s : State) (c : Nat) (v : U16) : (s.setRunning c v).dstBefore = s.dstBefore := rfl
@[simp] theorem State.setRunning_freeCtr (s : State) (c : Nat) (v : U16) : (s.setRunning c v).freeCtr = s.freeCtr := rfl
@[simp] theorem State.setRunning_pending (s : State) (c : Nat) (v : U16) : (s.setRunning c v).pending = s.pending := rfl

/-! ## setAcc -/

@[simp] theorem State.setAcc_seed00 (s : State) (a : U32) (n : Nat) : (s.setAcc a n).seed00 = s.seed00 := rfl
@[simp] theorem State.setAcc_seed01 (s : State) (a : U32) (n : Nat) : (s.setAcc a n).seed01 = s.seed01 := rfl
@[simp] theorem State.setAcc_seed10 (s : State) (a : U32) (n : Nat) : (s.setAcc a n).seed10 = s.seed10 := rfl
@[simp] theorem State.setAcc_seed11 (s : State) (a : U32) (n : Nat) : (s.setAcc a n).seed11 = s.seed11 := rfl
@[simp] theorem State.setAcc_running0 (s : State) (a : U32) (n : Nat) : (s.setAcc a n).running0 = s.running0 := rfl
@[simp] theorem State.setAcc_running1 (s : State) (a : U32) (n : Nat) : (s.setAcc a n).running1 = s.running1 := rfl
@[simp] theorem State.setAcc_acc (s : State) (a : U32) (n : Nat) : (s.setAcc a n).acc = a := rfl
@[simp] theorem State.setAcc_nbits (s : State) (a : U32) (n : Nat) : (s.setAcc a n).nbits = BitVec.ofNat 5 n := rfl
@[simp] theorem State.setAcc_cursor (s : State) (a : U32) (n : Nat) : (s.setAcc a n).cursor = s.cursor := rfl
@[simp] theorem State.setAcc_count (s : State) (a : U32) (n : Nat) : (s.setAcc a n).count = s.count := rfl
@[simp] theorem State.setAcc_phase (s : State) (a : U32) (n : Nat) : (s.setAcc a n).phase = s.phase := rfl
@[simp] theorem State.setAcc_row (s : State) (a : U32) (n : Nat) : (s.setAcc a n).row = s.row := rfl
@[simp] theorem State.setAcc_col (s : State) (a : U32) (n : Nat) : (s.setAcc a n).col = s.col := rfl
@[simp] theorem State.setAcc_statusState (s : State) (a : U32) (n : Nat) : (s.setAcc a n).statusState = s.statusState := rfl
@[simp] theorem State.setAcc_statusErr (s : State) (a : U32) (n : Nat) : (s.setAcc a n).statusErr = s.statusErr := rfl
@[simp] theorem State.setAcc_cols (s : State) (a : U32) (n : Nat) : (s.setAcc a n).cols = s.cols := rfl
@[simp] theorem State.setAcc_rows (s : State) (a : U32) (n : Nat) : (s.setAcc a n).rows = s.rows := rfl
@[simp] theorem State.setAcc_startPred (s : State) (a : U32) (n : Nat) : (s.setAcc a n).startPred = s.startPred := rfl
@[simp] theorem State.setAcc_srcSize (s : State) (a : U32) (n : Nat) : (s.setAcc a n).srcSize = s.srcSize := rfl
@[simp] theorem State.setAcc_dstSize (s : State) (a : U32) (n : Nat) : (s.setAcc a n).dstSize = s.dstSize := rfl
@[simp] theorem State.setAcc_result (s : State) (a : U32) (n : Nat) : (s.setAcc a n).result = s.result := rfl
@[simp] theorem State.setAcc_src (s : State) (a : U32) (n : Nat) : (s.setAcc a n).src = s.src := rfl
@[simp] theorem State.setAcc_dst (s : State) (a : U32) (n : Nat) : (s.setAcc a n).dst = s.dst := rfl
@[simp] theorem State.setAcc_srcByteOrder (s : State) (a : U32) (n : Nat) : (s.setAcc a n).srcByteOrder = s.srcByteOrder := rfl
@[simp] theorem State.setAcc_out (s : State) (a : U32) (n : Nat) : (s.setAcc a n).out = s.out := rfl
@[simp] theorem State.setAcc_srcPast (s : State) (a : U32) (n : Nat) : (s.setAcc a n).srcPast = s.srcPast := rfl
@[simp] theorem State.setAcc_dstBefore (s : State) (a : U32) (n : Nat) : (s.setAcc a n).dstBefore = s.dstBefore := rfl
@[simp] theorem State.setAcc_freeCtr (s : State) (a : U32) (n : Nat) : (s.setAcc a n).freeCtr = s.freeCtr := rfl
@[simp] theorem State.setAcc_pending (s : State) (a : U32) (n : Nat) : (s.setAcc a n).pending = s.pending := rfl

/-! ## putWord -/

@[simp] theorem State.putWord_seed00 (s : State) (w : U32) (k : Nat) : (s.putWord w k).seed00 = s.seed00 := rfl
@[simp] theorem State.putWord_seed01 (s : State) (w : U32) (k : Nat) : (s.putWord w k).seed01 = s.seed01 := rfl
@[simp] theorem State.putWord_seed10 (s : State) (w : U32) (k : Nat) : (s.putWord w k).seed10 = s.seed10 := rfl
@[simp] theorem State.putWord_seed11 (s : State) (w : U32) (k : Nat) : (s.putWord w k).seed11 = s.seed11 := rfl
@[simp] theorem State.putWord_running0 (s : State) (w : U32) (k : Nat) : (s.putWord w k).running0 = s.running0 := rfl
@[simp] theorem State.putWord_running1 (s : State) (w : U32) (k : Nat) : (s.putWord w k).running1 = s.running1 := rfl
@[simp] theorem State.putWord_acc (s : State) (w : U32) (k : Nat) : (s.putWord w k).acc = s.acc := rfl
@[simp] theorem State.putWord_nbits (s : State) (w : U32) (k : Nat) : (s.putWord w k).nbits = s.nbits := rfl
@[simp] theorem State.putWord_cursor (s : State) (w : U32) (k : Nat) : (s.putWord w k).cursor = s.cursor + 4#64 := rfl
@[simp] theorem State.putWord_count (s : State) (w : U32) (k : Nat) : (s.putWord w k).count = s.count + BitVec.ofNat 64 k := rfl
@[simp] theorem State.putWord_phase (s : State) (w : U32) (k : Nat) : (s.putWord w k).phase = s.phase := rfl
@[simp] theorem State.putWord_row (s : State) (w : U32) (k : Nat) : (s.putWord w k).row = s.row := rfl
@[simp] theorem State.putWord_col (s : State) (w : U32) (k : Nat) : (s.putWord w k).col = s.col := rfl
@[simp] theorem State.putWord_statusState (s : State) (w : U32) (k : Nat) : (s.putWord w k).statusState = s.statusState := rfl
@[simp] theorem State.putWord_statusErr (s : State) (w : U32) (k : Nat) : (s.putWord w k).statusErr = s.statusErr := rfl
@[simp] theorem State.putWord_cols (s : State) (w : U32) (k : Nat) : (s.putWord w k).cols = s.cols := rfl
@[simp] theorem State.putWord_rows (s : State) (w : U32) (k : Nat) : (s.putWord w k).rows = s.rows := rfl
@[simp] theorem State.putWord_startPred (s : State) (w : U32) (k : Nat) : (s.putWord w k).startPred = s.startPred := rfl
@[simp] theorem State.putWord_srcSize (s : State) (w : U32) (k : Nat) : (s.putWord w k).srcSize = s.srcSize := rfl
@[simp] theorem State.putWord_dstSize (s : State) (w : U32) (k : Nat) : (s.putWord w k).dstSize = s.dstSize := rfl
@[simp] theorem State.putWord_result (s : State) (w : U32) (k : Nat) : (s.putWord w k).result = s.result := rfl
@[simp] theorem State.putWord_src (s : State) (w : U32) (k : Nat) : (s.putWord w k).src = s.src := rfl
@[simp] theorem State.putWord_dst (s : State) (w : U32) (k : Nat) : (s.putWord w k).dst = s.dst.writeWord s.cursor.toNat w := rfl
@[simp] theorem State.putWord_srcByteOrder (s : State) (w : U32) (k : Nat) : (s.putWord w k).srcByteOrder = s.srcByteOrder := rfl
@[simp] theorem State.putWord_out (s : State) (w : U32) (k : Nat) : (s.putWord w k).out = s.out := rfl
@[simp] theorem State.putWord_srcPast (s : State) (w : U32) (k : Nat) : (s.putWord w k).srcPast = s.srcPast := rfl
@[simp] theorem State.putWord_dstBefore (s : State) (w : U32) (k : Nat) : (s.putWord w k).dstBefore = s.dstBefore := rfl
@[simp] theorem State.putWord_freeCtr (s : State) (w : U32) (k : Nat) : (s.putWord w k).freeCtr = s.freeCtr := rfl
@[simp] theorem State.putWord_pending (s : State) (w : U32) (k : Nat) : (s.putWord w k).pending = s.pending := rfl

/-! ## setOut -/

@[simp] theorem State.setOut_seed00 (s : State) (o : Out) : (s.setOut o).seed00 = s.seed00 := rfl
@[simp] theorem State.setOut_seed01 (s : State) (o : Out) : (s.setOut o).seed01 = s.seed01 := rfl
@[simp] theorem State.setOut_seed10 (s : State) (o : Out) : (s.setOut o).seed10 = s.seed10 := rfl
@[simp] theorem State.setOut_seed11 (s : State) (o : Out) : (s.setOut o).seed11 = s.seed11 := rfl
@[simp] theorem State.setOut_running0 (s : State) (o : Out) : (s.setOut o).running0 = s.running0 := rfl
@[simp] theorem State.setOut_running1 (s : State) (o : Out) : (s.setOut o).running1 = s.running1 := rfl
@[simp] theorem State.setOut_acc (s : State) (o : Out) : (s.setOut o).acc = s.acc := rfl
@[simp] theorem State.setOut_nbits (s : State) (o : Out) : (s.setOut o).nbits = s.nbits := rfl
@[simp] theorem State.setOut_cursor (s : State) (o : Out) : (s.setOut o).cursor = s.cursor := rfl
@[simp] theorem State.setOut_count (s : State) (o : Out) : (s.setOut o).count = s.count := rfl
@[simp] theorem State.setOut_phase (s : State) (o : Out) : (s.setOut o).phase = s.phase := rfl
@[simp] theorem State.setOut_row (s : State) (o : Out) : (s.setOut o).row = s.row := rfl
@[simp] theorem State.setOut_col (s : State) (o : Out) : (s.setOut o).col = s.col := rfl
@[simp] theorem State.setOut_statusState (s : State) (o : Out) : (s.setOut o).statusState = s.statusState := rfl
@[simp] theorem State.setOut_statusErr (s : State) (o : Out) : (s.setOut o).statusErr = s.statusErr := rfl
@[simp] theorem State.setOut_cols (s : State) (o : Out) : (s.setOut o).cols = s.cols := rfl
@[simp] theorem State.setOut_rows (s : State) (o : Out) : (s.setOut o).rows = s.rows := rfl
@[simp] theorem State.setOut_startPred (s : State) (o : Out) : (s.setOut o).startPred = s.startPred := rfl
@[simp] theorem State.setOut_srcSize (s : State) (o : Out) : (s.setOut o).srcSize = s.srcSize := rfl
@[simp] theorem State.setOut_dstSize (s : State) (o : Out) : (s.setOut o).dstSize = s.dstSize := rfl
@[simp] theorem State.setOut_result (s : State) (o : Out) : (s.setOut o).result = s.result := rfl
@[simp] theorem State.setOut_src (s : State) (o : Out) : (s.setOut o).src = s.src := rfl
@[simp] theorem State.setOut_dst (s : State) (o : Out) : (s.setOut o).dst = s.dst := rfl
@[simp] theorem State.setOut_srcByteOrder (s : State) (o : Out) : (s.setOut o).srcByteOrder = s.srcByteOrder := rfl
@[simp] theorem State.setOut_out (s : State) (o : Out) : (s.setOut o).out = o := rfl
@[simp] theorem State.setOut_srcPast (s : State) (o : Out) : (s.setOut o).srcPast = s.srcPast := rfl
@[simp] theorem State.setOut_dstBefore (s : State) (o : Out) : (s.setOut o).dstBefore = s.dstBefore := rfl
@[simp] theorem State.setOut_freeCtr (s : State) (o : Out) : (s.setOut o).freeCtr = s.freeCtr := rfl
@[simp] theorem State.setOut_pending (s : State) (o : Out) : (s.setOut o).pending = s.pending := rfl

end Sys2Proof.Machine
end

