-- ==== Sys2Proof/Laws/Memory.lean ====
section
/-! SUPPORT. The laws of the buffers: read after write, the canonical form kept by every operation, and equal contents of
canonical buffers as equal lists. -/

namespace Sys2Proof.Machine

@[simp] theorem Memory.read_nil (a : Nat) : Memory.read [] a = none := rfl

/-- A read at the offset of a write gives the byte written. -/
@[simp] theorem Memory.read_write_same (m : Memory) (a : Nat) (b : Byte) : (m.write a b).read a = some b := by
  induction m with
  | nil => simp [Memory.write, Memory.read]
  | cons h m ih =>
    obtain ⟨x, v⟩ := h
    unfold Memory.write
    split
    · simp [Memory.read]
    · split
      · simp [Memory.read]
      · rename_i hne
        simp [Memory.read, hne, ih]

/-- A write leaves every other offset alone. -/
theorem Memory.read_write_other (m : Memory) {a c : Nat} (b : Byte) (h : c ≠ a) : (m.write a b).read c = m.read c := by
  induction m with
  | nil => simp [Memory.write, Memory.read, h]
  | cons e m ih =>
    obtain ⟨x, v⟩ := e
    unfold Memory.write
    split
    · simp [Memory.read, h]
    · split
      · rename_i hax
        subst hax
        simp [Memory.read, h]
      · simp [Memory.read, ih]

theorem Memory.wfAbove_write (m : Memory) {lo a : Nat} (b : Byte) (hlo : lo < a) (h : Memory.wfAbove lo m = true) :
    Memory.wfAbove lo (m.write a b) = true := by
  induction m generalizing lo with
  | nil => simp [Memory.write, Memory.wfAbove, hlo]
  | cons e m ih =>
    obtain ⟨x, v⟩ := e
    simp only [Memory.wfAbove, Bool.and_eq_true, decide_eq_true_eq] at h
    unfold Memory.write
    split
    · rename_i hax
      simp [Memory.wfAbove, hlo, hax, h.2]
    · split
      · rename_i hax
        subst hax
        simp [Memory.wfAbove, hlo, h.2]
      · simp only [Memory.wfAbove, Bool.and_eq_true, decide_eq_true_eq]
        exact ⟨h.1, ih (by omega) h.2⟩

/-- A write keeps the canonical form. -/
theorem Memory.wf_write (m : Memory) (a : Nat) (b : Byte) (h : m.wf = true) : (m.write a b).wf = true := by
  cases m with
  | nil => rfl
  | cons e m =>
    obtain ⟨x, v⟩ := e
    simp only [Memory.wf] at h
    unfold Memory.write
    split
    · rename_i hax
      simp [Memory.wf, Memory.wfAbove, hax, h]
    · split
      · rename_i hax
        subst hax
        simpa [Memory.wf] using h
      · simp only [Memory.wf]
        exact Memory.wfAbove_write m b (by omega) h

/-- A word write keeps the canonical form. -/
theorem Memory.wf_writeWord (m : Memory) (off : Nat) (w : U32) (h : m.wf = true) : (m.writeWord off w).wf = true :=
  Memory.wf_write _ _ _ (Memory.wf_write _ _ _ (Memory.wf_write _ _ _ (Memory.wf_write _ _ _ h)))

/-- A word write puts byte `k` of the word, most significant first, at `off + k`. -/
theorem Memory.read_writeWord (m : Memory) (off k : Nat) (w : U32) (hk : k < 4) :
    (m.writeWord off w).read (off + k) = some (wordByte w k) := by
  unfold Memory.writeWord
  have hcases : k = 0 ∨ k = 1 ∨ k = 2 ∨ k = 3 := by omega
  obtain rfl | rfl | rfl | rfl := hcases
  · rw [Memory.read_write_other _ _ (by omega), Memory.read_write_other _ _ (by omega),
      Memory.read_write_other _ _ (by omega)]
    simp
  · rw [Memory.read_write_other _ _ (by omega), Memory.read_write_other _ _ (by omega), Memory.read_write_same]
  · rw [Memory.read_write_other _ _ (by omega), Memory.read_write_same]
  · rw [Memory.read_write_same]

/-- A word write leaves every byte outside its four alone. -/
theorem Memory.read_writeWord_other (m : Memory) {off a : Nat} (w : U32) (h : a < off ∨ off + 4 ≤ a) :
    (m.writeWord off w).read a = m.read a := by
  unfold Memory.writeWord
  rw [Memory.read_write_other _ _ (by omega), Memory.read_write_other _ _ (by omega),
    Memory.read_write_other _ _ (by omega), Memory.read_write_other _ _ (by omega)]

theorem Memory.read_eq_none_of_wfAbove (m : Memory) {lo a : Nat} (h : Memory.wfAbove lo m = true) (ha : a ≤ lo) :
    m.read a = none := by
  induction m generalizing lo with
  | nil => rfl
  | cons e m ih =>
    obtain ⟨x, v⟩ := e
    simp only [Memory.wfAbove, Bool.and_eq_true, decide_eq_true_eq] at h
    have hne : a ≠ x := by omega
    simp [Memory.read, hne, ih h.2 (by omega)]

theorem Memory.wfAbove_of_wf_cons {x : Nat} {v : Byte} {m : Memory} (h : Memory.wf ((x, v) :: m) = true) :
    Memory.wfAbove x m = true := h

theorem Memory.wf_of_wfAbove {lo : Nat} {m : Memory} (h : Memory.wfAbove lo m = true) : m.wf = true := by
  cases m with
  | nil => rfl
  | cons e m =>
    simp only [Memory.wfAbove, Bool.and_eq_true] at h
    exact h.2

/-- Canonical buffers that hold the same bytes are the same list. -/
theorem Memory.ext_of_wf {m n : Memory} (hm : m.wf = true) (hn : n.wf = true) (h : ∀ a, m.read a = n.read a) : m = n := by
  induction m generalizing n with
  | nil =>
    cases n with
    | nil => rfl
    | cons e n =>
      have := h e.1
      simp [Memory.read] at this
  | cons d m ih =>
    cases n with
    | nil =>
      have := h d.1
      simp [Memory.read] at this
    | cons e n =>
      obtain ⟨x, v⟩ := d
      obtain ⟨y, w⟩ := e
      have hmx := Memory.wfAbove_of_wf_cons hm
      have hny := Memory.wfAbove_of_wf_cons hn
      have hxy : x = y := by
        by_contra hne
        rcases Nat.lt_or_gt_of_ne hne with hlt | hgt
        · have hx := h x
          rw [show Memory.read ((y, w) :: n) x = none from by
            simp [Memory.read, hne, Memory.read_eq_none_of_wfAbove n hny (Nat.le_of_lt hlt)]] at hx
          simp [Memory.read] at hx
        · have hy := h y
          rw [show Memory.read ((x, v) :: m) y = none from by
            simp [Memory.read, Ne.symm hne, Memory.read_eq_none_of_wfAbove m hmx (Nat.le_of_lt hgt)]] at hy
          simp [Memory.read] at hy
      subst hxy
      have hv : v = w := by
        have hx := h x
        simpa [Memory.read] using hx
      subst hv
      have htail : m = n := by
        refine ih (Memory.wf_of_wfAbove hmx) (Memory.wf_of_wfAbove hny) fun a => ?_
        by_cases ha : a = x
        · subst ha
          rw [Memory.read_eq_none_of_wfAbove m hmx (Nat.le_refl _), Memory.read_eq_none_of_wfAbove n hny (Nat.le_refl _)]
        · have := h a
          simpa [Memory.read, ha] using this
      rw [htail]

/-- The buffers of the reset state are canonical. -/
theorem reset_buffers_wf : State.reset.src.wf = true ∧ State.reset.dst.wf = true := ⟨rfl, rfl⟩

end Sys2Proof.Machine
end

