-- ==== Sys2Proof/Laws/Ops.lean ====
section
/-! SUPPORT. For each shared operation, everything it can do, said once: what holds of the next state if it answers one, and
when it stops. -/

namespace Sys2Proof.Machine

/-! ## Sequencing -/

@[simp] theorem andThen_next (s : State) (f : State → Res) : andThen (.next s) f = f s := rfl

@[simp] theorem andThen_fault (e : Fault) (f : State → Res) : andThen (.fault e) f = .fault e := rfl

@[simp] theorem andThen_refused (e : Refusal) (f : State → Res) : andThen (.refused e) f = .refused e := rfl

/-- A sequence answers a next state only through a next state of its first part. -/
theorem andThen_eq_next {r : Res} {f : State → Res} {t : State} :
    andThen r f = .next t ↔ ∃ s, r = .next s ∧ f s = .next t := by
  cases r <;> simp

theorem andThen_assoc (r : Res) (f g : State → Res) :
    andThen (andThen r f) g = andThen r fun s => andThen (f s) g := by
  cases r <;> rfl

/-! ## The writer -/

/-- A word flush has two outcomes: the word stored, or the fault where it does not fit. -/
theorem storeWord_cases (w : U32) (k : Nat) (s : State) :
    (HasRoom s ∧ storeWord w k s = .next (s.putWord w k)) ∨ (¬ HasRoom s ∧ storeWord w k s = .fault .dstOverrun) := by
  unfold storeWord HasRoom
  by_cases h : s.cursor.toNat + 4 > s.dstSize.toNat
  · exact .inr ⟨by omega, by simp [h]⟩
  · exact .inl ⟨by omega, by simp [h]⟩

theorem storeWord_next {w : U32} {k : Nat} {s t : State} (h : storeWord w k s = .next t) :
    HasRoom s ∧ t = s.putWord w k := by
  rcases storeWord_cases w k s with ⟨hr, he⟩ | ⟨_, he⟩
  · rw [he] at h
    injection h with h
    exact ⟨hr, h.symm⟩
  · rw [he] at h
    cases h

/-- `cursor + 4` does not wrap where the word fits. -/
theorem cursor_putWord {s : State} (w : U32) (k : Nat) (h : HasRoom s) :
    (s.putWord w k).cursor.toNat = s.cursor.toNat + 4 := by
  have hd := s.dstSize.isLt
  unfold HasRoom at h
  simp only [State.putWord_cursor, BitVec.toNat_add, BitVec.toNat_ofNat]
  omega

/-- Everything `appendBits` can answer as a next state: the field fits and only `acc` and `nbits` change, or the word fills, is
stored and the remainder is kept. -/
theorem appendBits_next {c v : Nat} {s t : State} (h : appendBits c v s = .next t) :
    c < 32 ∧
    ((s.nbits.toNat + c < 32 ∧
        t = s.setAcc (s.acc ||| BitVec.ofNat 32 (v % 2 ^ c) <<< (32 - s.nbits.toNat - c)) (s.nbits.toNat + c)) ∨
     (32 ≤ s.nbits.toNat + c ∧ HasRoom s ∧
        t = (s.putWord (s.acc ||| BitVec.ofNat 32 (v % 2 ^ c) >>> (c - (32 - s.nbits.toNat))) 4).setAcc
          (if c - (32 - s.nbits.toNat) = 0 then 0#32
           else BitVec.ofNat 32 (v % 2 ^ c % 2 ^ (c - (32 - s.nbits.toNat))) <<< (32 - (c - (32 - s.nbits.toNat))))
          (c - (32 - s.nbits.toNat)))) := by
  unfold appendBits at h
  split at h
  · cases h
  · rename_i hc
    refine ⟨by omega, ?_⟩
    dsimp only at h
    split at h
    · rename_i hn
      injection h with h
      exact .inl ⟨hn, h.symm⟩
    · rename_i hn
      obtain ⟨u, hu, ht⟩ := andThen_eq_next.mp h
      obtain ⟨hr, rfl⟩ := storeWord_next hu
      injection ht with ht
      exact .inr ⟨by omega, hr, ht.symm⟩

/-- `appendBits` is refused exactly for 32 bits or more. -/
theorem appendBits_refused {c v : Nat} {s : State} {e : Refusal} (h : appendBits c v s = .refused e) :
    32 ≤ c ∧ e = .appendCount c := by
  unfold appendBits at h
  split at h
  · rename_i hc
    injection h with h
    exact ⟨hc, h.symm⟩
  · dsimp only at h
    split at h
    · cases h
    · rcases storeWord_cases (s.acc ||| BitVec.ofNat 32 (v % 2 ^ c) >>> (c - (32 - s.nbits.toNat))) 4 s with
        ⟨_, he⟩ | ⟨_, he⟩ <;> rw [he] at h <;> cases h

/-- Everything `flush` can answer as a next state. -/
theorem flush_next {s t : State} (h : flush s = .next t) :
    (s.nbits.toNat = 0 ∧ t = s) ∨
    (0 < s.nbits.toNat ∧ HasRoom s ∧ t = (s.putWord s.acc (4 - (32 - s.nbits.toNat) / 8)).setAcc 0#32 0) := by
  unfold flush at h
  split at h
  · rename_i hn
    obtain ⟨u, hu, ht⟩ := andThen_eq_next.mp h
    obtain ⟨hr, rfl⟩ := storeWord_next hu
    injection ht with ht
    exact .inr ⟨hn, hr, ht.symm⟩
  · rename_i hn
    injection h with h
    exact .inl ⟨by omega, h.symm⟩

/-- A class up to 14 has an entry, and its code has at most 8 bits. -/
theorem codeEntry_some {c : Nat} (h : c ≤ 14) : ∃ len code, codeEntry c = some (len, code) ∧ 2 ≤ len ∧ len ≤ 8 ∧ code < 2 ^ len := by
  interval_cases c <;> exact ⟨_, _, rfl, by decide, by decide, by decide⟩

theorem codeEntry_none {c : Nat} (h : 14 < c) : codeEntry c = none := by
  unfold codeEntry Config.maxClass
  simp [h]

/-- A symbol of a class that has a code is the code appended, then the data value. -/
theorem emitSymbol_eq {c len code : Nat} (d : Nat) (s : State) (h : codeEntry c = some (len, code)) :
    emitSymbol c d s = andThen (appendBits len code s) (appendBits c d) := by
  unfold emitSymbol
  rw [h]

/-! ## Bytes whose moment is open -/

theorem oneOf_nil (n : Nat) (b : Byte) : oneOf n b [] = b := rfl

/-- `oneOf` answers one of the bytes it is given. -/
theorem oneOf_mem (n : Nat) (b : Byte) (bs : List Byte) : oneOf n b bs = b ∨ oneOf n b bs ∈ bs := by
  cases bs with
  | nil => exact .inl rfl
  | cons c cs =>
    have hlt : n % (cs.length + 2) < (b :: c :: cs).length := Nat.mod_lt _ (by omega)
    have hget : oneOf n b (c :: cs) = (b :: c :: cs)[n % (cs.length + 2)] := by
      simp only [oneOf, List.getD_eq_getElem?_getD, List.getElem?_eq_getElem hlt, Option.getD_some]
    exact List.mem_cons.mp (hget ▸ List.getElem_mem hlt)

/-- Where the host has not stored during the pass, the core reads what the buffer holds. -/
theorem coreByte_of_unstored {s : State} {off : Nat} (h : ∀ e ∈ s.srcPast, e.1 ≠ off) : coreByte s off = srcByte s off := by
  have hp : pastBytes s off = [] := by
    simpa [pastBytes, List.filter_eq_nil_iff] using h
  unfold coreByte
  rw [hp, oneOf_nil]

/-- The core reads a byte that the buffer holds or has held since START. -/
theorem coreByte_cases (s : State) (off : Nat) : coreByte s off = srcByte s off ∨ (off, coreByte s off) ∈ s.srcPast := by
  have key : ∀ v ∈ pastBytes s off, (off, v) ∈ s.srcPast := by
    intro v hv
    simp only [pastBytes, List.mem_map, List.mem_filter, beq_iff_eq] at hv
    obtain ⟨e, ⟨he, rfl⟩, rfl⟩ := hv
    exact he
  exact (oneOf_mem _ _ (pastBytes s off)).imp_right (key _)

/-- In a pass the host has not disturbed, the core's samples are those the buffer holds. -/
theorem sampleAt_of_undisturbed {s : State} (h : s.srcPast = []) (i : Nat) : sampleAt s i = placedSample s i := by
  unfold sampleAt placedSample
  rw [coreByte_of_unstored (by simp [h]), coreByte_of_unstored (by simp [h])]

/-- A host access to `DST` has its own outcome or, under a word of the pass, the other. -/
theorem unlessUnderWord_cases (s : State) (off : Nat) (b other : Byte) :
    unlessUnderWord s off b other = b ∨ (off < wordsEnd s ∧ unlessUnderWord s off b other = other) := by
  unfold unlessUnderWord
  split
  · rename_i h
    exact (oneOf_mem _ b [other]).imp_right fun hm => ⟨h, by simpa using hm⟩
  · exact .inl rfl

/-! ## The predictor -/

/-- The registers outside the six of the predictor are untouched by `observe`. -/
theorem observeUpdate_frame (s : State) (row col : Nat) (pixel : U16) :
    observeUpdate s row col pixel =
      { s with
        seed00 := (observeUpdate s row col pixel).seed00, seed01 := (observeUpdate s row col pixel).seed01
        seed10 := (observeUpdate s row col pixel).seed10, seed11 := (observeUpdate s row col pixel).seed11
        running0 := (observeUpdate s row col pixel).running0
        running1 := (observeUpdate s row col pixel).running1 } := by
  unfold observeUpdate
  split <;> rfl

/-- The register update is the sample itself: `(old + (pixel - old)) mod 65536 = pixel` (R157). -/
theorem wrapAdd_delta (pixel old : U16) : wrapAdd old (delta pixel old) = pixel := by
  unfold wrapAdd delta
  have h : (old.toNat : Int) + ((pixel.toNat : Int) - (old.toNat : Int)) = (pixel.toNat : Int) := by omega
  rw [h]
  simp

/-- The classes `observe` accepts are 0 and 2 to 14. -/
theorem classify_some {d : Int} {c v : Nat} (h : classify d = some (c, v)) : c = classOf d ∧ v = dataValue d ∧ c ≤ 14 := by
  unfold classify Config.maxClass at h
  split at h
  · cases h
  · simp only [Option.some.injEq, Prod.mk.injEq] at h
    exact ⟨h.1.symm, h.2.symm, by omega⟩

theorem classify_none {d : Int} (h : classify d = none) : 14 < classOf d := by
  unfold classify Config.maxClass at h
  split at h
  · assumption
  · cases h

/-! ## The abort, START, completion, reset -/

/-- `raise` always answers a next state; only `STATUS`, `RESULT` and `phase` change in it. -/
theorem raiseError_eq (e : ErrKind) (s : State) :
    raiseError e s =
      .next { s with statusState := 3#2, statusErr := errField e, result := sentinel e, phase := .error } := rfl

theorem startPass_rest {s : State} (h : restPhase s.phase = true) :
    startPass s =
      { s with
        statusState := 1#2, statusErr := 0#2, result := 0#64, phase := .checkSrc, srcPast := [], dstBefore := s.dst } := by
  unfold startPass
  rw [if_pos h]
  rfl

theorem startPass_busy {s : State} (h : restPhase s.phase = false) : startPass s = s := by
  unfold startPass
  simp [h]

theorem complete_eq (s : State) : complete s = { s with statusState := 2#2, result := s.count, phase := .done } := rfl

/-- Reset touches neither buffer, nor the byte order, nor what happens next. -/
theorem hardwareReset_keeps (s : State) :
    (hardwareReset s).src = s.src ∧ (hardwareReset s).dst = s.dst ∧
      (hardwareReset s).srcByteOrder = s.srcByteOrder ∧ (hardwareReset s).pending = s.pending :=
  ⟨rfl, rfl, rfl, rfl⟩

/-! ## Host accesses -/

/-- A host write of a register reaches the state only through START or a parameter register. -/
theorem hostWriteReg_cases (reg : Nat) (v : U64) (s : State) :
    hostWriteReg reg v s = s ∨ (reg = 0 ∧ hostWriteReg reg v s = startPass s) ∨
      (isBusy s = false ∧ hostWriteReg reg v s = setParam s v reg) := by
  unfold hostWriteReg
  by_cases h0 : reg = 0
  · by_cases hb : v.getLsbD 0
    · exact .inr (.inl ⟨h0, by simp [h0, hb]⟩)
    · exact .inl (by rw [if_pos h0, if_neg hb])
  · by_cases hs : isBusy s = true
    · exact .inl (by simp [h0, hs])
    · exact .inr (.inr ⟨by simpa using hs, by simp [h0, hs]⟩)

/-- A host store into `SRC` writes the byte; during a pass it also records what it overwrites. -/
theorem hostStoreSrc_eq (off : Nat) (b : Byte) (s : State) :
    hostStoreSrc off b s =
      { s with
        src := s.src.write off b
        srcPast := if isBusy s then (off, srcByte s off) :: s.srcPast else s.srcPast
        freeCtr := if isBusy s then s.freeCtr + 1 else s.freeCtr } := by
  unfold hostStoreSrc
  split <;> rfl

/-- A host store into `DST` outside a pass writes the byte. -/
theorem hostStoreDst_rest {s : State} (off : Nat) (b : Byte) (h : isBusy s = false) :
    hostStoreDst off b s = { s with dst := s.dst.write off b } := by
  simp [hostStoreDst, h]

/-- A host store into `DST` during a pass writes the byte beside the words; with them, the byte or what was there. -/
theorem hostStoreDst_busy {s : State} (off : Nat) (b : Byte) (h : isBusy s = true) :
    ∃ v : Byte, (v = b ∨ (off < wordsEnd s ∧ v = dstByte s off)) ∧
      hostStoreDst off b s =
        { s with dst := s.dst.write off v, dstBefore := s.dstBefore.write off b, freeCtr := s.freeCtr + 1 } :=
  ⟨_, unlessUnderWord_cases s off b (dstByte s off), by simp [hostStoreDst, h]⟩

/-- A host load of `DST` during a pass returns the byte with the words or the byte without them. -/
theorem hostLoadDst_busy {s : State} (off : Nat) (h : isBusy s = true) :
    ∃ v : Byte, (v = dstByte s off ∨ (off < wordsEnd s ∧ v = dstBeforeByte s off)) ∧
      hostLoadDst off s = { s with out := .byteRead .dst off v, freeCtr := s.freeCtr + 1 } :=
  ⟨_, unlessUnderWord_cases s off (dstByte s off) (dstBeforeByte s off), by simp [hostLoadDst, h, State.setOut]⟩

/-- A host load of `DST` outside a pass returns the byte the buffer holds. -/
theorem hostLoadDst_rest {s : State} (off : Nat) (h : isBusy s = false) :
    hostLoadDst off s = s.setOut (.byteRead .dst off (dstByte s off)) := by
  simp [hostLoadDst, h]

/-! ## A step -/

theorem step_of_fetch_run {s t : State} {i : Instr} (h : fetch s = .run i t) : step s = exec i t := by
  unfold step
  rw [h]

theorem step_of_fetch_done {s : State} {r : Res} (h : fetch s = .done r) : step s = r := by
  unfold step
  rw [h]

theorem fetch_nil {s : State} (h : s.pending = []) : fetch s = coreTurn s := by
  unfold fetch
  rw [h]

theorem fetch_cons {s : State} {a : Action} {rest : List Action} (h : s.pending = a :: rest) :
    fetch s = takeAction a { s with pending := rest } := by
  unfold fetch
  rw [h]

end Sys2Proof.Machine
end

