-- ==== Sys2Proof/Laws/PerInstr.lean ====
section
/-! SUPPORT. Statements about every instruction, one lemma per constructor of Instr. -/

namespace Sys2Proof.Laws

/-- How many bits a frame has; an operation has none (30_encoding.md R104). -/
def frameWidth : Frame → Nat
  | .bits _ b => b.length
  | .call _ _ => 0

/-- The width of a row's encoding in spec/opcode_table.json: the total bits of a symbol (R93), 12 for a ROM word (R99), 32 and
64 for the host registers (R31), none for an operation. -/
def tableWidth : Instr → Nat
  | .sym0 => 6
  | .sym1 _ => 8
  | .sym2 _ => 8
  | .sym3 _ => 8
  | .sym4 _ => 8
  | .sym5 _ => 8
  | .sym6 _ => 9
  | .sym7 _ => 9
  | .sym8 _ => 11
  | .sym9 _ => 12
  | .sym10 _ => 14
  | .sym11 _ => 16
  | .sym12 _ => 18
  | .sym13 _ => 21
  | .sym14 _ => 22
  | .rom0 => 12
  | .rom1 => 12
  | .rom2 => 12
  | .rom3 => 12
  | .rom4 => 12
  | .rom5 => 12
  | .rom6 => 12
  | .rom7 => 12
  | .rom8 => 12
  | .rom9 => 12
  | .rom10 => 12
  | .rom11 => 12
  | .rom12 => 12
  | .rom13 => 12
  | .rom14 => 12
  | .rom15 => 12
  | .ctrlStart _ => 32
  | .ctrlNop _ => 32
  | .statusIdle => 32
  | .statusBusy => 32
  | .statusDone => 32
  | .statusErrSrcSmall => 32
  | .statusErrNoHuff => 32
  | .statusErrDstSmall => 32
  | .resultSrcSmall => 64
  | .resultNoHuff => 64
  | .resultDstSmall => 64
  | .resultCount _ => 64
  | .lookup _ => 0
  | .appendBits _ _ => 0
  | .flush => 0
  | .predict _ _ => 0
  | .observe _ _ _ => 0
  | .encode => 0
  | .start => 0
  | .checkSrc => 0
  | .init => 0
  | .rowCheck => 0
  | .pixel => 0
  | .finalFlush => 0
  | .raise _ => 0
  | .reset => 0

namespace FrameWidth

/-- The frame of an instruction has the width of its row. -/
def Statement (i : Instr) : Prop :=
  frameWidth (Sys2Proof.encode i) = tableWidth i

theorem sym0 : Statement .sym0 := by
  simp [Statement, Sys2Proof.encode, frameWidth, tableWidth, symBits, codeBits, codeEntry, Config.maxClass, Config.codeTable]
theorem sym1 (d : BitVec 1) : Statement (.sym1 d) := by
  simp [Statement, Sys2Proof.encode, frameWidth, tableWidth, symBits, codeBits, codeEntry, Config.maxClass, Config.codeTable]
theorem sym2 (d : BitVec 2) : Statement (.sym2 d) := by
  simp [Statement, Sys2Proof.encode, frameWidth, tableWidth, symBits, codeBits, codeEntry, Config.maxClass, Config.codeTable]
theorem sym3 (d : BitVec 3) : Statement (.sym3 d) := by
  simp [Statement, Sys2Proof.encode, frameWidth, tableWidth, symBits, codeBits, codeEntry, Config.maxClass, Config.codeTable]
theorem sym4 (d : BitVec 4) : Statement (.sym4 d) := by
  simp [Statement, Sys2Proof.encode, frameWidth, tableWidth, symBits, codeBits, codeEntry, Config.maxClass, Config.codeTable]
theorem sym5 (d : BitVec 5) : Statement (.sym5 d) := by
  simp [Statement, Sys2Proof.encode, frameWidth, tableWidth, symBits, codeBits, codeEntry, Config.maxClass, Config.codeTable]
theorem sym6 (d : BitVec 6) : Statement (.sym6 d) := by
  simp [Statement, Sys2Proof.encode, frameWidth, tableWidth, symBits, codeBits, codeEntry, Config.maxClass, Config.codeTable]
theorem sym7 (d : BitVec 7) : Statement (.sym7 d) := by
  simp [Statement, Sys2Proof.encode, frameWidth, tableWidth, symBits, codeBits, codeEntry, Config.maxClass, Config.codeTable]
theorem sym8 (d : BitVec 8) : Statement (.sym8 d) := by
  simp [Statement, Sys2Proof.encode, frameWidth, tableWidth, symBits, codeBits, codeEntry, Config.maxClass, Config.codeTable]
theorem sym9 (d : BitVec 9) : Statement (.sym9 d) := by
  simp [Statement, Sys2Proof.encode, frameWidth, tableWidth, symBits, codeBits, codeEntry, Config.maxClass, Config.codeTable]
theorem sym10 (d : BitVec 10) : Statement (.sym10 d) := by
  simp [Statement, Sys2Proof.encode, frameWidth, tableWidth, symBits, codeBits, codeEntry, Config.maxClass, Config.codeTable]
theorem sym11 (d : BitVec 11) : Statement (.sym11 d) := by
  simp [Statement, Sys2Proof.encode, frameWidth, tableWidth, symBits, codeBits, codeEntry, Config.maxClass, Config.codeTable]
theorem sym12 (d : BitVec 12) : Statement (.sym12 d) := by
  simp [Statement, Sys2Proof.encode, frameWidth, tableWidth, symBits, codeBits, codeEntry, Config.maxClass, Config.codeTable]
theorem sym13 (d : BitVec 13) : Statement (.sym13 d) := by
  simp [Statement, Sys2Proof.encode, frameWidth, tableWidth, symBits, codeBits, codeEntry, Config.maxClass, Config.codeTable]
theorem sym14 (d : BitVec 14) : Statement (.sym14 d) := by
  simp [Statement, Sys2Proof.encode, frameWidth, tableWidth, symBits, codeBits, codeEntry, Config.maxClass, Config.codeTable]
theorem rom0 : Statement .rom0 := natBits_length 12 _
theorem rom1 : Statement .rom1 := natBits_length 12 _
theorem rom2 : Statement .rom2 := natBits_length 12 _
theorem rom3 : Statement .rom3 := natBits_length 12 _
theorem rom4 : Statement .rom4 := natBits_length 12 _
theorem rom5 : Statement .rom5 := natBits_length 12 _
theorem rom6 : Statement .rom6 := natBits_length 12 _
theorem rom7 : Statement .rom7 := natBits_length 12 _
theorem rom8 : Statement .rom8 := natBits_length 12 _
theorem rom9 : Statement .rom9 := natBits_length 12 _
theorem rom10 : Statement .rom10 := natBits_length 12 _
theorem rom11 : Statement .rom11 := natBits_length 12 _
theorem rom12 : Statement .rom12 := natBits_length 12 _
theorem rom13 : Statement .rom13 := natBits_length 12 _
theorem rom14 : Statement .rom14 := natBits_length 12 _
theorem rom15 : Statement .rom15 := natBits_length 12 _
theorem ctrlStart (r : BitVec 31) : Statement (.ctrlStart r) := natBits_length 32 _
theorem ctrlNop (r : BitVec 31) : Statement (.ctrlNop r) := natBits_length 32 _
theorem statusIdle : Statement .statusIdle := natBits_length 32 _
theorem statusBusy : Statement .statusBusy := natBits_length 32 _
theorem statusDone : Statement .statusDone := natBits_length 32 _
theorem statusErrSrcSmall : Statement .statusErrSrcSmall := natBits_length 32 _
theorem statusErrNoHuff : Statement .statusErrNoHuff := natBits_length 32 _
theorem statusErrDstSmall : Statement .statusErrDstSmall := natBits_length 32 _
theorem resultSrcSmall : Statement .resultSrcSmall := natBits_length 64 _
theorem resultNoHuff : Statement .resultNoHuff := natBits_length 64 _
theorem resultDstSmall : Statement .resultDstSmall := natBits_length 64 _
theorem resultCount (n : BitVec 63) : Statement (.resultCount n) := natBits_length 64 _
theorem lookup (c : Nat) : Statement (.lookup c) := rfl
theorem appendBits (c v : Nat) : Statement (.appendBits c v) := rfl
theorem flush : Statement .flush := rfl
theorem predict (r c : Nat) : Statement (.predict r c) := rfl
theorem observe (r c : Nat) (p : U16) : Statement (.observe r c p) := rfl
theorem encode : Statement .encode := rfl
theorem start : Statement .start := rfl
theorem checkSrc : Statement .checkSrc := rfl
theorem init : Statement .init := rfl
theorem rowCheck : Statement .rowCheck := rfl
theorem pixel : Statement .pixel := rfl
theorem finalFlush : Statement .finalFlush := rfl
theorem raise (e : ErrKind) : Statement (.raise e) := rfl
theorem reset : Statement .reset := rfl

end FrameWidth

end Sys2Proof.Laws
end

