-- ==== Sys2Proof/Tests/Slice0.lean ====
section
/-! SUPPORT. Small tests, their expected values from 95_test_vectors.md and the tables of the spec; the smoke test of
WellFormed; and, for each statement with hypotheses, states and operands that meet them together. -/

namespace Sys2Proof.Tests

open Sys2Proof Sys2Proof.Machine Sys2Proof.Claims

/-- A bit 1. -/
abbrev I : Bool := true

/-- A bit 0. -/
abbrev O : Bool := false

/-- The next state, if there is one. -/
def nextOf : Res → Option State
  | .next s => some s
  | .fault _ => none
  | .refused _ => none

/-- The reset state with a destination buffer of 2 MiB. -/
def base : State := { State.reset with dstSize := 0x200000#32 }

/-- The writer in a given position. -/
def writer (acc : U32) (nbits : BitVec 5) (pos : U64) : State :=
  { base with acc := acc, nbits := nbits, cursor := pos, count := pos }

/-- The bit writer's registers and the placed bytes of `DST`. -/
structure Writer where
  acc : U32
  nbits : BitVec 5
  cursor : U64
  count : U64
  dst : Memory
deriving DecidableEq, Repr

/-- The bit writer after an instruction. -/
def writerAfter (i : Instr) (s : State) : Option Writer :=
  (nextOf (exec i s)).map fun t => ⟨t.acc, t.nbits, t.cursor, t.count, t.dst⟩

/-- The six predictor registers in the order of 95_test_vectors.md, and what was returned. -/
def tileAfter (i : Instr) (s : State) : Option (List U16 × Out) :=
  (nextOf (exec i s)).map fun t => ([t.seed00, t.seed01, t.seed10, t.seed11, t.running0, t.running1], t.out)

/-- `STATUS`, `RESULT`, phase, row and column after an instruction. -/
def statusAfter (i : Instr) (s : State) : Option (U32 × Int × Phase × U32 × U32) :=
  (nextOf (exec i s)).map fun t => (statusWord t, t.result.toInt, t.phase, t.row, t.col)

/-- The predictor state of vectors O1 to O13. -/
def tile : State :=
  { base with
    seed00 := 0x0800#16, seed01 := 0x0810#16, seed10 := 0x0820#16, seed11 := 0x0830#16
    running0 := 0x0840#16, running1 := 0x0850#16 }

/-- The parameters and the source of program P1, the source's own example. -/
def programP1 : State :=
  { base with
    cols := 4#32, rows := 1#32, startPred := 0x0800#16, srcSize := 8#32
    src := [(0, 0#8), (1, 8#8), (2, 0#8), (3, 8#8), (4, 0#8), (5, 8#8), (6, 0#8), (7, 8#8)] }

/-! ## WellFormed refuses what it should -/

theorem test_wellFormed_refuses_append_32 : (Instr.appendBits 32 0).WellFormed = false := by decide

theorem test_wellFormed_takes_append_31 : (Instr.appendBits 31 0).WellFormed = true := by decide

/-! ## Every row's word, written out from the tables of R93, R99, R101 and the notation of R103 -/

theorem test_decode_sym0 : decode (.bits .sym [I, I, I, I, I, O]) = .ok .sym0 := by decide
theorem test_decode_sym1 :
    decode (.bits .sym [I, I, I, I, I, I, O, I]) = .ok (.sym1 0b1#1) := by decide
theorem test_decode_sym2 :
    decode (.bits .sym [I, I, I, I, O, I, O, I]) = .ok (.sym2 0b01#2) := by decide
theorem test_decode_sym3 :
    decode (.bits .sym [I, I, I, O, O, I, O, I]) = .ok (.sym3 0b101#3) := by decide
theorem test_decode_sym4 :
    decode (.bits .sym [I, I, O, O, O, I, I, I]) = .ok (.sym4 0b0111#4) := by decide
theorem test_decode_sym5 :
    decode (.bits .sym [I, O, O, O, I, O, I, O]) = .ok (.sym5 0b01010#5) := by decide
theorem test_decode_sym6 :
    decode (.bits .sym [O, I, O, O, I, O, O, O, I]) = .ok (.sym6 0b010001#6) := by decide
theorem test_decode_sym7 :
    decode (.bits .sym [O, O, O, I, I, O, I, O, O]) = .ok (.sym7 0b0110100#7) := by decide
theorem test_decode_sym8 :
    decode (.bits .sym [O, I, I, O, I, O, O, I, I, O, I]) = .ok (.sym8 0b01001101#8) := by decide
theorem test_decode_sym9 :
    decode (.bits .sym [I, O, I, O, I, O, O, O, I, O, O, O]) = .ok (.sym9 0b010001000#9) := by decide
theorem test_decode_sym10 :
    decode (.bits .sym [I, I, O, I, O, I, O, O, O, O, O, I, I, O]) = .ok (.sym10 0b0100000110#10) := by decide
theorem test_decode_sym11 :
    decode (.bits .sym [I, I, I, O, I, O, I, O, O, O, I, I, O, I, I, O]) = .ok (.sym11 0b01000110110#11) := by decide
theorem test_decode_sym12 :
    decode (.bits .sym [I, I, I, I, O, O, O, I, O, I, O, I, I, O, I, O, I, I]) = .ok (.sym12 0b010101101011#12) := by decide
theorem test_decode_sym13 :
    decode (.bits .sym [I, I, I, I, I, I, I, O, O, I, I, I, I, O, I, I, O, O, I, O, I]) = .ok (.sym13 0b0111101100101#13) := by decide
theorem test_decode_sym14 :
    decode (.bits .sym [I, I, I, I, I, I, I, I, O, I, I, O, I, I, I, O, I, O, O, O, O, O]) = .ok (.sym14 0b01101110100000#14) := by decide

theorem test_decode_rom0 : decode (.bits .rom [O, I, I, O, O, O, I, I, I, I, I, O]) = .ok .rom0 := by decide
theorem test_decode_rom1 : decode (.bits .rom [O, I, I, I, O, I, I, I, I, I, I, O]) = .ok .rom1 := by decide
theorem test_decode_rom2 : decode (.bits .rom [O, I, I, O, O, O, I, I, I, I, O, I]) = .ok .rom2 := by decide
theorem test_decode_rom3 : decode (.bits .rom [O, I, O, I, O, O, O, I, I, I, O, O]) = .ok .rom3 := by decide
theorem test_decode_rom4 : decode (.bits .rom [O, I, O, O, O, O, O, O, I, I, O, O]) = .ok .rom4 := by decide
theorem test_decode_rom5 : decode (.bits .rom [O, O, I, I, O, O, O, O, O, I, O, O]) = .ok .rom5 := by decide
theorem test_decode_rom6 : decode (.bits .rom [O, O, I, I, O, O, O, O, O, O, I, O]) = .ok .rom6 := by decide
theorem test_decode_rom7 : decode (.bits .rom [O, O, I, O, O, O, O, O, O, O, O, O]) = .ok .rom7 := by decide
theorem test_decode_rom8 : decode (.bits .rom [O, O, I, I, O, O, O, O, O, O, I, I]) = .ok .rom8 := by decide
theorem test_decode_rom9 : decode (.bits .rom [O, O, I, I, O, O, O, O, O, I, O, I]) = .ok .rom9 := by decide
theorem test_decode_rom10 : decode (.bits .rom [O, I, O, O, O, O, O, O, I, I, O, I]) = .ok .rom10 := by decide
theorem test_decode_rom11 : decode (.bits .rom [O, I, O, I, O, O, O, I, I, I, O, I]) = .ok .rom11 := by decide
theorem test_decode_rom12 : decode (.bits .rom [O, I, I, O, O, O, I, I, I, I, O, O]) = .ok .rom12 := by decide
theorem test_decode_rom13 : decode (.bits .rom [I, O, O, O, I, I, I, I, I, I, I, O]) = .ok .rom13 := by decide
theorem test_decode_rom14 : decode (.bits .rom [I, O, O, O, I, I, I, I, I, I, I, I]) = .ok .rom14 := by decide
theorem test_decode_rom15 : decode (.bits .rom [O, O, O, O, O, O, O, O, O, O, O, O]) = .ok .rom15 := by decide

theorem test_decode_ctrl :
    decodeCtrl 0x00000001#32 = .ctrlStart 0#31 ∧ decodeCtrl 0xFFFFFFFF#32 = .ctrlStart 0x7FFFFFFF#31 ∧
    decodeCtrl 0x00000000#32 = .ctrlNop 0#31 ∧ decodeCtrl 0xFFFFFFFE#32 = .ctrlNop 0x7FFFFFFF#31 := by decide

theorem test_decode_status :
    decodeStatus 0x0#32 = .ok .statusIdle ∧ decodeStatus 0x1#32 = .ok .statusBusy ∧
    decodeStatus 0x2#32 = .ok .statusDone ∧ decodeStatus 0x7#32 = .ok .statusErrSrcSmall ∧
    decodeStatus 0xB#32 = .ok .statusErrNoHuff ∧ decodeStatus 0xF#32 = .ok .statusErrDstSmall ∧
    decodeStatus 0x3#32 = .error .noSuchStatus := by decide

theorem test_decode_result :
    decodeResult 0xFFFFFFFFFFFFFFFF#64 = .ok .resultSrcSmall ∧ decodeResult 0xFFFFFFFFFFFFFFFE#64 = .ok .resultNoHuff ∧
    decodeResult 0xFFFFFFFFFFFFFFFD#64 = .ok .resultDstSmall ∧ decodeResult 0x9#64 = .ok (.resultCount 9#63) ∧
    decodeResult 0xFFFFFFFFFFFFFFFC#64 = .error .noSuchResult := by decide

theorem test_decode_host_frames :
    decode (.bits .ctrl (natBits 32 1)) = .ok (.ctrlStart 0#31) ∧
    decode (.bits .status (natBits 32 0xF)) = .ok .statusErrDstSmall ∧
    decode (.bits .result (natBits 64 3)) = .ok (.resultCount 3#63) ∧
    decode (.bits .ctrl (natBits 16 1)) = .error .wrongLength := by decide

theorem test_decode_unit_calls :
    decode (.call .lookup [15]) = .ok (.lookup 15) ∧ decode (.call .appendBits [14, 0x2AAA]) = .ok (.appendBits 14 0x2AAA) ∧
    decode (.call .flush []) = .ok .flush ∧ decode (.call .predict [3, 1]) = .ok (.predict 3 1) ∧
    decode (.call .observe [0, 1, 0x0811]) = .ok (.observe 0 1 0x0811#16) ∧ decode (.call .encode []) = .ok .encode := by decide

theorem test_decode_sequencer_calls :
    decode (.call .start []) = .ok .start ∧ decode (.call .checkSrc []) = .ok .checkSrc ∧
    decode (.call .init []) = .ok .init ∧ decode (.call .rowCheck []) = .ok .rowCheck ∧
    decode (.call .pixel []) = .ok .pixel ∧ decode (.call .finalFlush []) = .ok .finalFlush ∧
    decode (.call .raise [3]) = .ok (.raise .outputBufferTooSmall) ∧ decode (.call .reset []) = .ok .reset := by decide

theorem test_decode_refusals :
    decode (.bits .sym [I, I, I]) = .error .truncatedCode ∧ decode (.bits .sym [I, I, O, O, I]) = .error .truncatedData ∧
    decode (.bits .sym [I, I, I, I, I, O, O]) = .error .trailingBits ∧
    decode (.bits .rom (natBits 12 0x900)) = .error .noSuchRomWord ∧ decode (.bits .raw [I]) = .error .noFormat ∧
    decode (.call .flush [1]) = .error .wrongArity ∧ decode (.call .appendBits [32, 0]) = .error .appendCount ∧
    decode (.call .observe [0, 0, 65536]) = .error .operandRange ∧ decode (.call .raise [4]) = .error .operandRange := by decide

theorem test_table_words :
    decodeTableWord 8 0xC4 = some (.sym4 4#4) ∧ decodeTableWord 16 0xE901 = some (.sym11 0x101#11) ∧
    decodeTableWord 32 1 = some (.ctrlStart 0#31) ∧ decodeTableWord 32 0xB = some .statusErrNoHuff := by decide

/-! ## Symbols and the writer (vectors A, F and the traces of P1, P2, P8) -/

theorem test_sym0_from_empty : writerAfter .sym0 (writer 0#32 0#5 0#64) = some ⟨0xF8000000#32, 6#5, 0#64, 0#64, []⟩ := by decide

theorem test_sym4_trace_P2 :
    writerAfter (.sym4 0b0100#4) (writer 0xF5F60000#32 16#5 0#64) = some ⟨0xF5F6C400#32, 24#5, 0#64, 0#64, []⟩ := by decide

theorem test_sym5_fills_the_word_P2 :
    writerAfter (.sym5 0b10000#5) (writer 0xF5F6C400#32 24#5 0#64) =
      some ⟨0#32, 0#5, 4#64, 4#64, [(0, 0xF5#8), (1, 0xF6#8), (2, 0xC4#8), (3, 0x90#8)]⟩ := by decide

theorem test_sym14_straddles_P8 :
    writerAfter (.sym14 0x2000#14) (writer 0xFF7FFC00#32 22#5 0#64) =
      some ⟨0#32, 12#5, 4#64, 4#64, [(0, 0xFF#8), (1, 0x7F#8), (2, 0xFF#8), (3, 0xFE#8)]⟩ := by decide

theorem test_append_A11 :
    writerAfter (.appendBits 14 0x2AAA) (writer 0xFBEFBE00#32 24#5 0#64) =
      some ⟨0xA8000000#32, 6#5, 4#64, 4#64, [(0, 0xFB#8), (1, 0xEF#8), (2, 0xBE#8), (3, 0xAA#8)]⟩ := by decide

theorem test_append_A12 :
    writerAfter (.appendBits 31 0x55555555) (writer 0xAAAAAAAA#32 31#5 0#64) =
      some ⟨0x55555554#32, 30#5, 4#64, 4#64, [(0, 0xAA#8), (1, 0xAA#8), (2, 0xAA#8), (3, 0xAB#8)]⟩ := by decide

theorem test_flush_F8 :
    writerAfter .flush (writer 0xFBEFBE00#32 24#5 8#64) =
      some ⟨0#32, 0#5, 12#64, 11#64, [(8, 0xFB#8), (9, 0xEF#8), (10, 0xBE#8), (11, 0x00#8)]⟩ := by decide

theorem test_flush_F1 : writerAfter .flush (writer 0#32 0#5 8#64) = some ⟨0#32, 0#5, 8#64, 8#64, []⟩ := by decide

/-! ## ROM and lookup (vectors 2.1) -/

theorem test_rom7_and_rom15 :
    (nextOf (exec .rom7 base)).map (·.out) = some (.entry 2 0) ∧
    (nextOf (exec .rom15 base)).map (·.out) = some .notFound := by decide

theorem test_lookup_14_and_255 :
    (nextOf (exec (.lookup 14) base)).map (·.out) = some (.entry 8 0xFF) ∧
    (nextOf (exec (.lookup 255) base)).map (·.out) = some .notFound := by decide

/-! ## The predictor (vectors 2.4 and O) -/

theorem test_predict_3_1 : tileAfter (.predict 3 1) tile =
    some ([0x0800#16, 0x0810#16, 0x0820#16, 0x0830#16, 0x0840#16, 0x0850#16], .predicted 0x0830#16) := by decide

theorem test_predict_7_5 : tileAfter (.predict 7 5) tile =
    some ([0x0800#16, 0x0810#16, 0x0820#16, 0x0830#16, 0x0840#16, 0x0850#16], .predicted 0x0850#16) := by decide

theorem test_observe_O3 : tileAfter (.observe 1 0 0x081F#16) tile =
    some ([0x0800#16, 0x0810#16, 0x081F#16, 0x0830#16, 0x081F#16, 0x0850#16], .observed 2 0b10) := by decide

theorem test_observe_O13 : tileAfter (.observe 0 2 0x2840#16) tile =
    some ([0x0800#16, 0x0810#16, 0x0820#16, 0x0830#16, 0x2840#16, 0x0850#16], .classOutOfRange) := by decide

/-! ## The sequencer (vectors K) and the host registers (vectors H) -/

theorem test_checkSrc_K2 :
    statusAfter .checkSrc { base with rows := 1#32, cols := 4#32, srcSize := 7#32 } = some (0x7#32, -1, .error, 0#32, 0#32) := by
  decide

theorem test_checkSrc_K5 :
    statusAfter .checkSrc { base with rows := 65536#32, cols := 65536#32, srcSize := 0xFFFFFFFF#32 } =
      some (0x7#32, -1, .error, 0#32, 0#32) := by decide

theorem test_rowCheck_K9 :
    statusAfter .rowCheck { writer 0#32 0#5 4#64 with rows := 2#32, cols := 4#32, row := 1#32, dstSize := 0x100003#32 } =
      some (0xF#32, -3, .error, 1#32, 0#32) := by decide

theorem test_rowCheck_K10 :
    statusAfter .rowCheck { writer 0#32 0#5 4#64 with rows := 2#32, cols := 4#32, row := 1#32, col := 3#32, dstSize := 0x100004#32 } =
      some (0#32, 0, .pixel, 1#32, 0#32) := by decide

theorem test_pixel_first_of_P1 :
    writerAfter .pixel { programP1 with seed00 := 0x0800#16 } = some ⟨0xF8000000#32, 6#5, 0#64, 0#64, []⟩ := by decide

theorem test_pixel_out_of_range_P9 :
    statusAfter .pixel { base with cols := 1#32, rows := 1#32, src := [(0, 0xFF#8), (1, 0x3F#8)] } =
      some (0xB#32, -2, .error, 0#32, 0#32) := by decide

theorem test_finalFlush_P1 :
    statusAfter .finalFlush { writer 0xFBEFBE00#32 24#5 0#64 with statusState := 1#2 } =
      some (0x2#32, 3, .done, 0#32, 0#32) := by decide

theorem test_encode_P1 :
    (nextOf (exec .encode programP1)).map (fun t => (t.result.toInt, t.dst)) =
      some (3, [(0, 0xFB#8), (1, 0xEF#8), (2, 0xBE#8), (3, 0x00#8)]) := by decide

theorem test_raise_noHuff : statusAfter (.raise .noHuffmanEntry) base = some (0xB#32, -2, .error, 0#32, 0#32) := by decide

theorem test_start_and_busy_start :
    statusAfter .start { base with phase := .error, statusState := 3#2, statusErr := 1#2 } =
      some (0x1#32, 0, .checkSrc, 0#32, 0#32) ∧
    statusAfter .start { base with phase := .pixel, statusState := 1#2 } = some (0x1#32, 0, .pixel, 0#32, 0#32) := by decide

theorem test_status_poll_hits_and_misses :
    (nextOf (exec .statusDone { base with statusState := 2#2 })).map (·.out) = some (.regPoll 1 2#64 true) ∧
    (nextOf (exec .statusIdle { base with statusState := 2#2 })).map (·.out) = some (.regPoll 1 2#64 false) := by decide

theorem test_host_write_while_busy_H_f :
    (nextOf (step { base with phase := .pixel, statusState := 1#2, pending := [.hostWrite 2 99#64] })).map (·.cols) =
      some 0#32 := by decide

/-! ## Host accesses during a pass: R240 is "not enforced by hardware" -/

theorem test_host_store_goes_on_while_busy :
    (nextOf (step { programP1 with phase := .pixel, statusState := 1#2, pending := [.hostStore .src 4 1#8] })).map
      (fun t => (t.src.read 4, t.srcPast)) = some (some 1#8, [(4, 0#8)]) := by decide

theorem test_host_load_beyond_the_words_while_busy :
    (nextOf (step { base with
      phase := .pixel, statusState := 1#2, cursor := 4#64, dst := [(9, 5#8)], pending := [.hostLoad .dst 9] })).map (·.out) =
      some (.byteRead .dst 9 5#8) := by decide

theorem test_step_runs_the_fetched_symbol :
    (nextOf (step (State.reset.withFetchWord 8 0xC4))).map (fun t => (t.acc, t.nbits, t.pending)) =
      some (0xC4000000#32, 8#5, []) := by decide

/-! ## States and operands that meet the hypotheses of the statements -/

/-- A pass at pixel (0, 2) of P1: two pixels encoded. -/
def atPixel : State :=
  { programP1 with
    phase := .pixel, statusState := 1#2, col := 2#32, acc := 0xFBE00000#32, nbits := 12#5
    seed00 := 0x0800#16, seed01 := 0x0800#16, seed10 := 0x0800#16, seed11 := 0x0800#16
    running0 := 0x0800#16, running1 := 0x0800#16 }

/-- The same pass when the host is about to overwrite the low byte of the sample it is at. -/
def disturbed : State := { atPixel with pending := [.hostStore .src 4 1#8] }

/-- The same pass with one word written, over a byte of the host's, and a host action to come. -/
def overWord (a : Action) : State :=
  { atPixel with
    cursor := 4#64, count := 4#64, dst := [(0, 0xFB#8), (1, 0xE0#8), (2, 0#8), (3, 0#8)], dstBefore := [(0, 7#8)]
    pending := [a] }

/-- The writer with 31 bits held and no room for a word. -/
def noRoom : State := { writer 0xFFFFFFFE#32 31#5 4#64 with dstSize := 7#32 }

/-- The same at a pixel. -/
def pixelNoRoom : State := { atPixel with acc := 0xFFFFFFFE#32, nbits := 31#5, cursor := 4#64, count := 4#64, dstSize := 7#32 }

theorem atPixel_inv : Inv atPixel :=
  ⟨rfl, ⟨rfl, rfl, rfl⟩, ⟨rfl, rfl, rfl⟩,
    ⟨by decide, ⟨by unfold AccClean; decide, rfl, rfl, by decide, fun _ _ => rfl⟩, by decide, by decide⟩⟩

theorem witness_DecodeEncodeEveryInstruction : (Instr.appendBits 31 7).WellFormed = true := by decide

theorem witness_EncodeDecodeEveryFrame : decode (.bits .sym [I, I, O, O, O, I, O, O]) = .ok (.sym4 4#4) := by decide

theorem witness_SymbolBoundariesAreFound : 14 ≤ 14 ∧ 16383 < 2 ^ 14 := by decide

theorem witness_EveryStreamBeginsWithOneCode : 8 ≤ [I, I, I, I, I, I, I, O].length := by decide

theorem witness_StepRunsTheDecodedInstruction :
    ({ base with pending := [.frame (encode .sym0)] } : State).pending = .frame (encode .sym0) :: [] ∧
    decode (encode .sym0) = .ok .sym0 ∧
    ({ base with pending := [.hostWrite 0 1#64] } : State).pending = .hostWrite 0 1#64 :: [] ∧
    ({ base with pending := [.resetPin] } : State).pending = .resetPin :: [] := by decide

theorem witness_StepTakesTheSequencersStep :
    atPixel.pending = [] ∧ ({ atPixel with pending := [.core] } : State).pending = .core :: [] := by decide

theorem witness_SymbolAppendsItsPattern :
    symbolPattern (.sym14 0#14) = some (natBits 8 0xFF ++ natBits 14 0) ∧ AccClean (writer 0xFFFFFFFE#32 31#5 0#64) ∧
    Fits (writer 0xFFFFFFFE#32 31#5 0#64) (natBits 8 0xFF ++ natBits 14 0).length ∧
    AccClean { noRoom with nbits := 9#5, acc := 0xFF800000#32 } ∧
    Fits { noRoom with nbits := 9#5, acc := 0xFF800000#32 } (natBits 8 0xFF ++ natBits 14 0).length := by
  unfold AccClean Fits HasRoom; decide

theorem witness_AppendBitsExtendsTheStream :
    31 < 32 ∧ AccClean (writer 0xFFFFFFFE#32 31#5 0#64) ∧ Fits (writer 0xFFFFFFFE#32 31#5 0#64) 31 ∧
    AccClean (writer 0#32 0#5 0#64) ∧ Fits { writer 0#32 0#5 0#64 with dstSize := 0#32 } 31 := by
  unfold AccClean Fits HasRoom; decide

theorem witness_AppendBitsComputesAcc :
    31 < 32 ∧ AccClean (writer 0x80000000#32 1#5 0#64) ∧ Fits (writer 0x80000000#32 1#5 0#64) 31 ∧
    32 ≤ (writer 0x80000000#32 1#5 0#64).nbits.toNat + 31 ∧ (writer 0#32 0#5 0#64).nbits.toNat + 31 < 32 := by
  unfold AccClean Fits HasRoom; decide

theorem witness_AppendsMayBeCutAnywhere : 8 + 23 ≤ 31 := by decide

theorem witness_AppendBitsRefusesAWholeWord : 32 ≤ 32 := by decide

theorem witness_FlushWritesThePaddedWord :
    (writer 0#32 0#5 0#64).nbits = 0#5 ∧ (writer 0x80000000#32 1#5 0#64).nbits ≠ 0#5 ∧
    HasRoom { writer 0x80000000#32 1#5 0#64 with dstSize := 4#32 } := by
  unfold HasRoom; decide

theorem witness_WordWritePastDstSizeFaults :
    ¬ HasRoom noRoom ∧ 1 < 32 ∧ 32 ≤ noRoom.nbits.toNat + 1 ∧
    symbolPattern .sym0 = some (natBits 6 0b111110) ∧ 32 ≤ noRoom.nbits.toNat + (natBits 6 0b111110).length ∧
    noRoom.nbits ≠ 0#5 ∧ ¬ HasRoom pixelNoRoom ∧ (pixelDelta pixelNoRoom).natAbs ≤ 8191 ∧
    32 ≤ pixelNoRoom.nbits.toNat +
      (symBits (classOf (pixelDelta pixelNoRoom)) (dataValue (pixelDelta pixelNoRoom))).length := by
  unfold HasRoom; decide

theorem witness_HostReadsHaveNoSideEffect :
    ∀ reg : Nat, ({ base with pending := [.hostRead reg] } : State).pending = .hostRead reg :: [] := fun _ => rfl

theorem witness_HostWritesReachOnlyParameters :
    ({ base with pending := [.hostWrite 6 5#64] } : State).pending = .hostWrite 6 5#64 :: [] ∧ 6 ≠ 0 := by decide

theorem witness_HostStoresPlaceOneByte :
    ({ base with pending := [.hostStore .src 0 1#8] } : State).pending = .hostStore .src 0 1#8 :: [] ∧
    base.statusState ≠ 1#2 ∧ disturbed.pending = .hostStore .src 4 1#8 :: [] ∧ disturbed.statusState = 1#2 ∧
    (overWord (.hostStore .dst 3 1#8)).pending = .hostStore .dst 3 1#8 :: [] ∧
    (overWord (.hostStore .dst 4 1#8)).pending = .hostStore .dst 4 1#8 :: [] ∧
    3 < wordsEnd (overWord (.hostStore .dst 3 1#8)) ∧ ¬ 4 < wordsEnd (overWord (.hostStore .dst 4 1#8)) := by decide

theorem witness_HostLoadsReturnTheByte :
    (overWord (.hostLoad .dst 0)).pending = .hostLoad .dst 0 :: [] ∧ (overWord (.hostLoad .dst 0)).statusState = 1#2 ∧
    0 < wordsEnd (overWord (.hostLoad .dst 0)) ∧ (overWord (.hostLoad .dst 4)).pending = .hostLoad .dst 4 :: [] ∧
    wordsEnd (overWord (.hostLoad .dst 4)) ≤ 4 ∧ (overWord (.hostLoad .src 5)).pending = .hostLoad .src 5 :: [] ∧
    (overWord (.hostLoad .src 5)).src.read 5 = some 8#8 ∧ base.statusState ≠ 1#2 := by decide

theorem witness_ObserveReturnsClassAndData :
    (0 : Int) = ((0x0840#16).toNat : Int) - ((predictAt tile 0 2).toNat : Int) ∧
    (8191 : Int) = ((0x283F#16).toNat : Int) - ((predictAt tile 0 2).toNat : Int) ∧
    (8192 : Int) = ((0x2840#16).toNat : Int) - ((predictAt tile 0 2).toNat : Int) := by decide

theorem witness_ClassIsTheBitLengthPlusOne :
    (8191 : Int).natAbs ≤ 2 ^ (14 - 1) - 1 ∧ 2 ^ (14 - 2) ≤ (4096 : Int).natAbs ∧ (-65535 : Int).natAbs ≤ 65535 := by decide

theorem witness_DataFieldShowsTheSign : (-1 : Int) ≠ 0 ∧ (-1 : Int) < 0 ∧ (0 : Int) < 1 ∧ 0 < classOf (-1) := by decide

theorem witness_DecodingLawRecoversTheDelta :
    (-8191 : Int).natAbs ≤ 8191 ∧ 14 = classOf (-8191) ∧ 8192 = dataValue (-8191) ∧ 2 ^ (14 - 1) ≤ 8192 ∧
    14 = classOf 8191 ∧ 8191 = dataValue 8191 ∧ 8191 < 2 ^ (14 - 1) ∧ 0 = classOf 0 := by decide

theorem witness_SampleBytesFollowTheParameter :
    programP1.src.read (2 * 3) = some 0#8 ∧ programP1.src.read (2 * 3 + 1) = some 8#8 ∧
    (∀ e ∈ programP1.srcPast, e.1 ≠ 2 * 3 ∧ e.1 ≠ 2 * 3 + 1) ∧
    ∀ e ∈ ({ programP1 with srcPast := [(5, 1#8), (8, 1#8)] } : State).srcPast, e.1 ≠ 2 * 3 ∧ e.1 ≠ 2 * 3 + 1 := by decide

theorem witness_CheckSrcComparesExactly :
    programP1.rows.toNat * programP1.cols.toNat * 2 ≤ programP1.srcSize.toNat ∧
    ({ programP1 with srcSize := 7#32 } : State).srcSize.toNat < programP1.rows.toNat * programP1.cols.toNat * 2 := by decide

theorem witness_RowCheckAppliesTheMargin :
    base.row = base.rows ∧ programP1.row ≠ programP1.rows ∧
    ({ programP1 with dstSize := 1048575#32 } : State).dstSize.toNat < programP1.count.toNat + 1048576 ∧
    programP1.count.toNat + 1048576 ≤ ({ programP1 with dstSize := 1048576#32 } : State).dstSize.toNat ∧
    programP1.cols ≠ 0#32 ∧ ({ programP1 with cols := 0#32 } : State).cols = 0#32 := by decide

theorem witness_PixelAppendsItsSymbol :
    (pixelDelta atPixel).natAbs ≤ 8191 ∧ AccClean atPixel ∧
    Fits atPixel (symBits (classOf (pixelDelta atPixel)) (dataValue (pixelDelta atPixel))).length := by
  unfold AccClean Fits HasRoom; decide

theorem witness_PixelOutOfRangeAborts :
    8192 ≤ (pixelDelta { base with cols := 1#32, rows := 1#32, src := [(0, 0#8), (1, 0x20#8)] }).natAbs := by decide

theorem witness_FinalFlushReportsTheCount :
    AccClean (writer 0xFBEFBE00#32 24#5 0#64) ∧ HasRoom (writer 0xFBEFBE00#32 24#5 0#64) ∧
    AccClean (writer 0#32 0#5 0#64) ∧ (writer 0#32 0#5 0#64).nbits = 0#5 := by
  unfold AccClean HasRoom; decide

theorem witness_UnprogrammedPassAfterResetIsEmpty : atPixel.pending = [] := rfl

theorem witness_EveryStepKeepsTheInvariant : Inv atPixel ∧ ∃ t, step atPixel = .next t := ⟨atPixel_inv, _, rfl⟩

theorem witness_EveryStepKeepsTheMargin : Inv atPixel ∧ MarginAgrees atPixel ∧ ∃ t, step atPixel = .next t :=
  ⟨atPixel_inv, ⟨by decide, by decide⟩, _, rfl⟩

/-- A pass at the first pixel of the widest frame that cannot overrun. -/
def atWidePixel : State :=
  { atPixel with cols := 381298#32, srcSize := 762596#32, col := 0#32, acc := 0#32, nbits := 0#5, dstSize := 0x100000#32 }

theorem witness_NarrowFramesNeverOverrun :
    Inv atWidePixel ∧ MarginAgrees atWidePixel ∧ atWidePixel.cols.toNat ≤ 381298 :=
  ⟨⟨rfl, ⟨rfl, rfl, rfl⟩, ⟨rfl, rfl, rfl⟩,
      ⟨by decide, ⟨by unfold AccClean; decide, rfl, rfl, by decide, fun _ _ => rfl⟩, by decide, by decide⟩⟩,
    ⟨by decide, by decide⟩, by decide⟩

theorem atPixel_predictor : PredictorAgrees atPixel :=
  fun _ =>
    ⟨fun p k hp hk _ => by interval_cases p <;> interval_cases k <;> decide,
     fun c hc _ => by
      have hc : c < 2 := hc
      interval_cases c <;> decide⟩

theorem witness_PredictorHoldsTheNeighbours :
    Inv atPixel ∧ PredictorAgrees atPixel ∧ (∃ t, step atPixel = .next t) ∧ atPixel.phase = .pixel ∧ atPixel.srcPast = [] :=
  ⟨atPixel_inv, atPixel_predictor, ⟨_, rfl⟩, rfl, rfl⟩

/-- A pass of P1 before its final flush. -/
def atFinalFlush : State :=
  { atPixel with phase := .finalFlush, row := 1#32, acc := 0xFBEFBE00#32, nbits := 24#5 }

theorem witness_StatusChangesOnlyAtTheEndsOfAPass :
    AgentsOnly atFinalFlush ∧ (∃ t, step atFinalFlush = .next t ∧ t.statusState ≠ atFinalFlush.statusState) ∧
    AgentsOnly { programP1 with pending := [.hostWrite 0 1#64] } ∧
    (∃ t, step { programP1 with pending := [.hostWrite 0 1#64] } = .next t ∧ t.statusState ≠ programP1.statusState) ∧
    AgentsOnly { atPixel with pending := [.resetPin] } ∧
    ∃ t, step { atPixel with pending := [.resetPin] } = .next t ∧ t.statusState ≠ atPixel.statusState :=
  ⟨rfl, ⟨_, rfl, by decide⟩, rfl, ⟨_, rfl, by decide⟩, rfl, _, rfl, by decide⟩

theorem witness_ParametersAreFrozenDuringAPass :
    atPixel.statusState = 1#2 ∧ AgentsOnly { atPixel with pending := [.hostWrite 2 99#64] } ∧
    ({ atPixel with pending := [.hostWrite 2 99#64] } : State).pending.head? ≠ some .resetPin ∧
    (∃ t, step { atPixel with pending := [.hostWrite 2 99#64] } = .next t) ∧
    AgentsOnly disturbed ∧ disturbed.pending.head? ≠ some .resetPin ∧ ∃ t, step disturbed = .next t :=
  ⟨rfl, rfl, by decide, ⟨_, rfl⟩, rfl, by decide, _, rfl⟩

theorem witness_CoreStepsWriteOnlyOneWord : atPixel.pending = [] ∧ ∃ t, step atPixel = .next t := ⟨rfl, _, rfl⟩

theorem witness_EncodeIsTheSequencersPass : programP1.pending = [] ∧ restPhase programP1.phase = true := by decide

theorem witness_EncodeWritesTheStreamOfTheFrame :
    restPhase programP1.phase = true ∧ 4 = programP1.rows.toNat * programP1.cols.toNat ∧
    2 * 4 ≤ programP1.srcSize.toNat ∧ (22 * 4 + 7) / 8 + 1048576 ≤ programP1.dstSize.toNat ∧
    (∀ i : Nat, i < 4 → (frameDelta programP1 i).natAbs ≤ 8191) ∧ 24 = (frameBits programP1 4).length := by decide

theorem witness_EncodeCompletesForNarrowFrames :
    restPhase programP1.phase = true ∧ programP1.cols.toNat ≤ 381298 ∧ restPhase atPixel.phase = false := by decide

theorem witness_EncodeErrorsComeInStepOrder :
    restPhase programP1.phase = true ∧
    ({ programP1 with srcSize := 7#32 } : State).srcSize.toNat < programP1.rows.toNat * programP1.cols.toNat * 2 ∧
    programP1.rows.toNat * programP1.cols.toNat * 2 ≤ programP1.srcSize.toNat ∧ programP1.rows ≠ 0#32 ∧
    ({ programP1 with dstSize := 1048575#32 } : State).dstSize.toNat < 1048576 := by decide

theorem witness_PassesShareNoHiddenState :
    SameInputs programP1 { programP1 with acc := 5#32, seed00 := 7#16, phase := .done } ∧
    restPhase programP1.phase = true ∧ restPhase ({ programP1 with phase := .done } : State).phase = true :=
  ⟨⟨rfl, rfl, rfl, rfl, rfl, rfl, rfl, rfl⟩, rfl, rfl⟩

end Sys2Proof.Tests
end

section
/-! The bit length of R8: its two equations, the order law `bitlen a ≤ k ↔ a < 2^k`, and the interval of each width.
Later proofs about magnitude classes (R153) go through these and do not unfold `bitlen`. -/

namespace Sys2Proof.Machine

@[simp] theorem bitlen_zero : bitlen 0 = 0 := if_pos rfl

theorem bitlen_of_ne_zero {a : Nat} (ha : a ≠ 0) : bitlen a = a.log2 + 1 := if_neg ha

/-- The width `bitlen a` and the power `2^k` bound each other, so `bitlen a` is the least width that holds `a` (R8). -/
theorem bitlen_le_iff {a k : Nat} : bitlen a ≤ k ↔ a < 2 ^ k := by
  by_cases ha : a = 0
  · simp [ha]
  · rw [bitlen_of_ne_zero ha, Nat.succ_le_iff, Nat.log2_lt ha]

theorem lt_two_pow_bitlen (a : Nat) : a < 2 ^ bitlen a := bitlen_le_iff.mp le_rfl

/-- The numbers of width `k + 1` are those from `2^k` up to the next power. -/
theorem bitlen_eq_succ_iff {a k : Nat} : bitlen a = k + 1 ↔ 2 ^ k ≤ a ∧ a < 2 ^ (k + 1) := by
  have hlo : 2 ^ k ≤ a ↔ k < bitlen a := by rw [← not_lt, ← bitlen_le_iff, not_le]
  rw [hlo, ← bitlen_le_iff]
  omega

end Sys2Proof.Machine

namespace Sys2Proof.Proofs
open Sys2Proof Sys2Proof.Machine Sys2Proof.Claims

/-- Settles O28: the order law gives the least width, and the interval of each width gives the listed values. -/
theorem bitlenIsTheSmallestWidth : Obligations.BitlenIsTheSmallestWidth := by
  unfold Obligations.BitlenIsTheSmallestWidth
  refine ⟨fun a => ⟨lt_two_pow_bitlen a, fun _ => bitlen_le_iff.mpr⟩,
    fun _ ha => bitlen_of_ne_zero (Nat.one_le_iff_ne_zero.mp ha), bitlen_zero, ?_, ?_, ?_,
    fun _ hlo hhi => bitlen_eq_succ_iff.mpr ⟨hlo, Nat.lt_succ_of_le hhi⟩, ?_, ?_, ?_, ?_⟩
  -- what is left are the listed values, each inside the interval of its width
  all_goals exact bitlen_eq_succ_iff.mpr (by decide)

end Sys2Proof.Proofs
end

section
/-! The magnitude class of R153 and the data value of R94: the class `k + 2` holds the magnitudes from `2^k` up to the next
power, so the data value of a positive delta fills the lower half of the field and that of a negative one the upper half.
Later proofs about symbols go through these and do not unfold `classOf` or `dataValue`. -/

namespace Sys2Proof.Machine

@[simp] theorem classOf_zero : classOf 0 = 0 := if_pos rfl

theorem classOf_of_ne_zero {d : Int} (hd : d ≠ 0) : classOf d = bitlen d.natAbs + 1 := if_neg hd

theorem classOf_eq_zero_iff {d : Int} : classOf d = 0 ↔ d = 0 := by
  by_cases hd : d = 0
  · simp [hd]
  · simp [hd, classOf_of_ne_zero hd]

theorem classOf_eq_add_two_iff {d : Int} {k : Nat} :
    classOf d = k + 2 ↔ 2 ^ k ≤ d.natAbs ∧ d.natAbs < 2 ^ (k + 1) := by
  by_cases hd : d = 0
  · simp [hd]
  · rw [classOf_of_ne_zero hd, ← bitlen_eq_succ_iff]
    omega

theorem classOf_ne_one (d : Int) : classOf d ≠ 1 := by
  by_cases hd : d = 0
  · simp [hd]
  · have hwidth : bitlen d.natAbs ≤ 0 ↔ d.natAbs < 1 := bitlen_le_iff
    rw [classOf_of_ne_zero hd]
    omega

/-- A delta other than 0 has a class of at least 2, and its magnitude lies in that class's interval. -/
theorem exists_classOf_eq_add_two {d : Int} (hd : d ≠ 0) :
    ∃ k, classOf d = k + 2 ∧ 2 ^ k ≤ d.natAbs ∧ d.natAbs < 2 ^ (k + 1) := by
  have hzero : classOf d ≠ 0 := mt classOf_eq_zero_iff.mp hd
  have hone := classOf_ne_one d
  have hclass : classOf d = (classOf d - 2) + 2 := by omega
  exact ⟨classOf d - 2, hclass, classOf_eq_add_two_iff.mp hclass⟩

theorem dataValue_of_nonneg {d : Int} (hd : 0 ≤ d) : dataValue d = d.natAbs := if_pos hd

theorem dataValue_of_neg {d : Int} (hd : d < 0) : dataValue d = 2 ^ classOf d - 1 - d.natAbs := if_neg (not_le.mpr hd)

theorem natAbs_lt_two_pow_classOf (d : Int) : d.natAbs < 2 ^ classOf d := by
  by_cases hd : d = 0
  · simp [hd]
  · rw [classOf_of_ne_zero hd, pow_succ]
    have hlt := lt_two_pow_bitlen d.natAbs
    omega

theorem dataValue_lt_two_pow_classOf (d : Int) : dataValue d < 2 ^ classOf d := by
  have hlt := natAbs_lt_two_pow_classOf d
  rcases le_or_gt 0 d with hd | hd
  · rwa [dataValue_of_nonneg hd]
  · rw [dataValue_of_neg hd]
    omega

/-- A positive delta's field begins with `01`. -/
theorem dataValue_bounds_of_pos {d : Int} (hd : 0 < d) :
    2 ^ (classOf d - 2) ≤ dataValue d ∧ dataValue d < 2 ^ (classOf d - 1) := by
  obtain ⟨k, hclass, hlo, hhi⟩ := exists_classOf_eq_add_two hd.ne'
  rw [dataValue_of_nonneg hd.le, hclass]
  exact ⟨hlo, hhi⟩

/-- A negative delta's field begins with `10`. -/
theorem dataValue_bounds_of_neg {d : Int} (hd : d < 0) :
    2 ^ (classOf d - 1) ≤ dataValue d ∧ dataValue d ≤ 2 ^ classOf d - 1 - 2 ^ (classOf d - 2) := by
  obtain ⟨k, hclass, hlo, hhi⟩ := exists_classOf_eq_add_two hd.ne
  have hdouble : 2 ^ (k + 2) = 2 * 2 ^ (k + 1) := pow_succ' 2 (k + 1)
  have hupper : 2 ^ (k + 1) ≤ 2 ^ (k + 2) - 1 - d.natAbs := by omega
  rw [dataValue_of_neg hd, hclass]
  exact ⟨hupper, Nat.sub_le_sub_left hlo _⟩

/-- The half of the field the data value lies in tells the sign (R94, R95). -/
theorem two_pow_le_dataValue_iff {d : Int} (hd : d ≠ 0) : 2 ^ (classOf d - 1) ≤ dataValue d ↔ d < 0 := by
  rcases hd.lt_or_gt with hneg | hpos
  · exact iff_of_true (dataValue_bounds_of_neg hneg).1 hneg
  · exact iff_of_false (not_le.mpr (dataValue_bounds_of_pos hpos).2) hpos.le.not_gt

/-- The bit under the top of a number's width tells whether it lies in the upper half of that width. -/
theorem testBit_eq_decide_of_lt {v k : Nat} (hv : v < 2 ^ (k + 1)) : v.testBit k = decide (2 ^ k ≤ v) := by
  rcases lt_or_ge v (2 ^ k) with hlow | hhigh
  · rw [Nat.testBit_lt_two_pow hlow, decide_eq_false (not_le.mpr hlow)]
  · rw [Nat.testBit_of_two_pow_le_and_two_pow_add_one_gt hhigh hv, decide_eq_true hhigh]

theorem testBit_dataValue_sign {d : Int} (hd : d ≠ 0) : (dataValue d).testBit (classOf d - 1) = decide (d < 0) := by
  have hclass : classOf d = (classOf d - 1) + 1 :=
    (Nat.sub_one_add_one (mt classOf_eq_zero_iff.mp hd)).symm
  rw [testBit_eq_decide_of_lt (hclass ▸ dataValue_lt_two_pow_classOf d)]
  exact decide_eq_decide.mpr (two_pow_le_dataValue_iff hd)

/-- A negative delta's data value is the complement of its magnitude within the class's bits. -/
theorem testBit_dataValue_of_neg {d : Int} (hd : d < 0) {k : Nat} (hk : k < classOf d) :
    (dataValue d).testBit k = !d.natAbs.testBit k := by
  rw [dataValue_of_neg hd, Nat.sub_sub, Nat.add_comm 1,
    Nat.testBit_two_pow_sub_succ (natAbs_lt_two_pow_classOf d), decide_eq_true hk, Bool.true_and]

/-- The complement gives the negative delta back. -/
theorem dataValue_sub_of_neg {d : Int} (hd : d < 0) : (dataValue d : Int) - ((2 : Int) ^ classOf d - 1) = d := by
  have hlt := natAbs_lt_two_pow_classOf d
  have hcast : ((2 ^ classOf d : Nat) : Int) = (2 : Int) ^ classOf d := Nat.cast_pow 2 _
  rw [dataValue_of_neg hd, ← hcast]
  omega

end Sys2Proof.Machine

namespace Sys2Proof.Proofs
open Sys2Proof Sys2Proof.Machine Sys2Proof.Claims

/-- Settles O30: the two bounds place the value in the half of the field its sign names, and the complement is bit by bit. -/
theorem dataFieldShowsTheSign : Obligations.DataFieldShowsTheSign := by
  unfold Obligations.DataFieldShowsTheSign
  refine ⟨fun d hd => ⟨rfl, Nat.le_sub_one_of_lt (dataValue_lt_two_pow_classOf d), fun hpos => ?_,
    dataValue_bounds_of_neg, testBit_dataValue_sign hd, fun hneg _ => testBit_dataValue_of_neg hneg⟩, classOf_zero, ?_⟩
  · obtain ⟨hlo, hhi⟩ := dataValue_bounds_of_pos hpos
    exact ⟨hlo, Nat.le_sub_one_of_lt hhi⟩
  · rw [classOf_zero]
    rfl

/-- Settles O31: the half of the field gives the sign, and each sign has its own inverse. The bound on the magnitude, which
says what the core can encode, is not needed. -/
theorem decodingLawRecoversTheDelta : Obligations.DecodingLawRecoversTheDelta := by
  unfold Obligations.DecodingLawRecoversTheDelta
  rintro d c v - rfl rfl
  have ne_zero (hclass : 0 < classOf d) : d ≠ 0 := mt classOf_eq_zero_iff.mpr hclass.ne'
  refine ⟨classOf_eq_zero_iff.mp, fun hclass hlow => ?_, fun hclass hhigh => ?_⟩
  · have hnonneg : 0 ≤ d := not_lt.mp (mt (two_pow_le_dataValue_iff (ne_zero hclass)).mpr (not_le.mpr hlow))
    rw [dataValue_of_nonneg hnonneg, Int.natAbs_of_nonneg hnonneg]
  · have hneg : d < 0 := (two_pow_le_dataValue_iff (ne_zero hclass)).mp hhigh
    exact (dataValue_sub_of_neg hneg).symm

end Sys2Proof.Proofs
end

section
/-! The predicted value of R151, column by column, and the upper bound a width puts on the magnitude class of R153. Later
proofs about the predictor go through these and do not unfold `predictAt`. -/

namespace Sys2Proof.Machine

/-- A magnitude within `k` bits has a class of at most `k + 1`. -/
theorem classOf_le_succ_of_lt {d : Int} {k : Nat} (hd : d.natAbs < 2 ^ k) : classOf d ≤ k + 1 := by
  by_cases hzero : d = 0
  · simp [hzero]
  · rw [classOf_of_ne_zero hzero]
    exact Nat.succ_le_succ (bitlen_le_iff.mpr hd)

theorem exec_predict (s : State) (row col : Nat) :
    exec (.predict row col) s = .next (s.setOut (.predicted (predictAt s row col))) := rfl

@[simp] theorem predictAt_zero (s : State) (row : Nat) :
    predictAt s row 0 = if row % 2 = 0 then s.seed00 else s.seed10 := rfl

@[simp] theorem predictAt_one (s : State) (row : Nat) :
    predictAt s row 1 = if row % 2 = 0 then s.seed01 else s.seed11 := rfl

theorem predictAt_of_two_le (s : State) (row : Nat) {col : Nat} (hcol : 2 ≤ col) :
    predictAt s row col = if col % 2 = 0 then s.running0 else s.running1 :=
  if_neg (by omega)

end Sys2Proof.Machine

namespace Sys2Proof.Proofs
open Sys2Proof Sys2Proof.Machine Sys2Proof.Claims

/-- Settles O29: a class from 2 on is the interval of its width, and a magnitude up to 65535 is 16 bits wide. -/
theorem classIsTheBitLengthPlusOne : Obligations.ClassIsTheBitLengthPlusOne := by
  unfold Obligations.ClassIsTheBitLengthPlusOne
  intro d
  refine ⟨classOf_eq_zero_iff.mpr, classOf_of_ne_zero, fun c hc => ?_, classOf_ne_one d, fun hd => ?_⟩
  · obtain ⟨k, rfl⟩ := Nat.exists_eq_add_of_le' hc
    rw [classOf_eq_add_two_iff, ← Nat.le_sub_one_iff_lt (Nat.two_pow_pos (k + 1))]
    rfl
  · have hwidth : d.natAbs < 2 ^ 16 := by omega
    exact classOf_le_succ_of_lt hwidth

/-- Settles O25: `predict` only returns a value, and the columns 0, 1 and from 2 on are the three cases of that value. -/
theorem predictReadsTheRightRegister : Obligations.PredictReadsTheRightRegister := by
  unfold Obligations.PredictReadsTheRightRegister
  intro s row col
  rw [exec_predict]
  match col with
  | 0 => rw [predictAt_zero]; rfl
  | 1 => rw [predictAt_one]; rfl
  | col + 2 => rw [predictAt_of_two_le s row (Nat.le_add_left 2 col)]; rfl

end Sys2Proof.Proofs
end

section
/-! The step INIT (R174): its registers are those of `initRegs` (R44), and it goes on to ROW_CHECK. Later proofs about the
start of a pass go through these and do not unfold `initRegs`. -/

namespace Sys2Proof.Machine

theorem exec_init (s : State) : exec .init s = .next { initRegs s with phase := .rowCheck } := rfl

/-- The predictor restarts from `START_PRED`, the writer and the raster counters from zero; the phase, the host registers
and the buffers are as before (R44). -/
theorem initRegs_eq (s : State) :
    initRegs s =
      { s with
        seed00 := s.startPred, seed01 := s.startPred, seed10 := s.startPred, seed11 := s.startPred
        running0 := s.startPred, running1 := s.startPred
        acc := 0#32, nbits := 0#5, cursor := 0#64, count := 0#64, row := 0#32, col := 0#32 } := rfl

end Sys2Proof.Machine

namespace Sys2Proof.Proofs
open Sys2Proof Sys2Proof.Machine Sys2Proof.Claims

/-- Settles O34: INIT is the register writes of R44, which leave the phase alone, and then the phase ROW_CHECK. -/
theorem initWritesEveryDatapathRegister : Obligations.InitWritesEveryDatapathRegister := by
  unfold Obligations.InitWritesEveryDatapathRegister
  intro s
  rw [exec_init, initRegs_eq]

end Sys2Proof.Proofs
end

section
/-! Words and their bit strings (R6), and the symbols of R92: reading a code off a bit string inverts writing it, so a
symbol is found whatever follows it (R96). -/

namespace Sys2Proof

/-- A word is read back from its own bit string. -/
theorem ofNat_bitsNat_natBits {n : Nat} (w : BitVec n) : BitVec.ofNat n (bitsNat (natBits n w.toNat)) = w := by
  rw [bitsNat_natBits, Nat.mod_eq_of_lt w.isLt, BitVec.ofNat_toNat, BitVec.setWidth_eq]

/-- A bit string of `n` bits is that of the word it writes. -/
theorem natBits_toNat_ofNat_bitsNat {n : Nat} {b : List Bool} (hb : b.length = n) :
    natBits n (BitVec.ofNat n (bitsNat b)).toNat = b := by
  subst hb
  rw [BitVec.toNat_ofNat, Nat.mod_eq_of_lt (bitsNat_lt b), natBits_bitsNat]

theorem ofNat_mod_two_pow (n v : Nat) : BitVec.ofNat n (v % 2 ^ n) = BitVec.ofNat n v :=
  BitVec.eq_of_toNat_eq (by simp)

/-- The code tree of R96 inverts the code table of R120. -/
theorem decodeCode_codeBits {c : Nat} (hc : c ≤ 14) (rest : List Bool) :
    decodeCode (codeBits c ++ rest) = some (c, rest) := by
  interval_cases c <;> rfl

/-- What the code tree reads is a code of the table, and it answers what follows the code. -/
theorem eq_codeBits_of_decodeCode {b r : List Bool} {c : Nat} (h : decodeCode b = some (c, r)) :
    c ≤ 14 ∧ b = codeBits c ++ r := by
  unfold decodeCode at h
  split at h
  case h_16 => cases h
  all_goals
    cases h
    exact ⟨by decide, rfl⟩

/-- The code tree has no open end within 8 bits. -/
theorem decodeCode_isSome_of_eight_bits :
    ∀ x0 x1 x2 x3 x4 x5 x6 x7 : Bool, (decodeCode [x0, x1, x2, x3, x4, x5, x6, x7]).isSome = true := by
  decide

/-- Some code begins every string of 8 bits or more. -/
theorem exists_codeBits_append_eq {b : List Bool} (hb : 8 ≤ b.length) : ∃ c ≤ 14, ∃ r, codeBits c ++ r = b := by
  match b, hb with
  | x0 :: x1 :: x2 :: x3 :: x4 :: x5 :: x6 :: x7 :: rest, _ =>
    obtain ⟨⟨c, r⟩, hread⟩ :=
      Option.isSome_iff_exists.mp (decodeCode_isSome_of_eight_bits x0 x1 x2 x3 x4 x5 x6 x7)
    obtain ⟨hc, hsplit⟩ := eq_codeBits_of_decodeCode hread
    exact ⟨c, hc, r ++ rest, by rw [← List.append_assoc, ← hsplit]; rfl⟩

/-! ## Symbols -/

@[simp] theorem symBits_length (c d : Nat) : (symBits c d).length = (codeBits c).length + c := by
  rw [symBits, List.length_append, natBits_length]

theorem exists_symInstr {c : Nat} (hc : c ≤ 14) (d : Nat) : ∃ i, symInstr c d = some i := by
  interval_cases c <;> exact ⟨_, rfl⟩

/-- The data field of class `c` holds the low `c` bits. -/
theorem symInstr_mod (c d : Nat) : symInstr c (d % 2 ^ c) = symInstr c d := by
  unfold symInstr
  split <;> simp only [ofNat_mod_two_pow]

theorem symBits_mod (c d : Nat) : symBits c (d % 2 ^ c) = symBits c d := by
  rw [symBits, natBits_mod, symBits]

/-- A symbol row is written as the symbol of its class and data value. -/
theorem encode_symInstr {c d : Nat} {i : Instr} (h : symInstr c d = some i) : encode i = .bits .sym (symBits c d) := by
  rw [← symBits_mod]
  unfold symInstr at h
  split at h
  case h_1 => cases h; rfl
  case h_16 => cases h
  all_goals
    cases h
    simp only [encode, BitVec.toNat_ofNat]

theorem wellFormed_symInstr {c d : Nat} {i : Instr} (h : symInstr c d = some i) : i.WellFormed = true := by
  unfold symInstr at h
  split at h <;> cases h <;> rfl

/-- A symbol is read back whatever follows it. -/
theorem decodeSym_symBits {c d : Nat} {i : Instr} (h : symInstr c d = some i) (hc : c ≤ 14) (rest : List Bool) :
    decodeSym (symBits c d ++ rest) = .ok (i, rest) := by
  have hlen : ¬ (natBits c d ++ rest).length < c := by simp
  have htake : (natBits c d ++ rest).take c = natBits c d := List.take_left' (natBits_length c d)
  have hdrop : (natBits c d ++ rest).drop c = rest := List.drop_left' (natBits_length c d)
  rw [symBits, List.append_assoc, decodeSym, decodeCode_codeBits hc]
  simp only [if_neg hlen, htake, hdrop, bitsNat_natBits, symInstr_mod, h]

/-- What is read as a symbol is a symbol followed by the rest. -/
theorem eq_symBits_of_decodeSym {b r : List Bool} {i : Instr} (h : decodeSym b = .ok (i, r)) :
    ∃ c d, symInstr c d = some i ∧ b = symBits c d ++ r := by
  unfold decodeSym at h
  split at h
  · cases h
  · rename_i c tail hcode
    obtain ⟨-, rfl⟩ := eq_codeBits_of_decodeCode hcode
    split at h
    · cases h
    · rename_i hlen
      split at h
      · rename_i i' hi
        cases h
        have hdata : natBits c (bitsNat (tail.take c)) = tail.take c := by
          have htake : (tail.take c).length = c := List.length_take_of_le (not_lt.mp hlen)
          simpa only [htake] using natBits_bitsNat (tail.take c)
        refine ⟨c, _, hi, ?_⟩
        rw [symBits, hdata, List.append_assoc, List.take_append_drop]
      · cases h

end Sys2Proof

namespace Sys2Proof.Proofs
open Sys2Proof Sys2Proof.Machine Sys2Proof.Claims

/-- Settles O3: the symbol of the class and the data value is read back, and the reader stops where it ends. -/
theorem symbolBoundariesAreFound : Obligations.SymbolBoundariesAreFound := by
  unfold Obligations.SymbolBoundariesAreFound
  intro c d rest hc _
  obtain ⟨i, hi⟩ := exists_symInstr hc d
  exact ⟨i, hi, encode_symInstr hi, symBits_length c d, decodeSym_symBits hi hc rest⟩

/-- Settles O4: within 8 bits the code tree ends in a code, and two codes that begin the string are both the one it reads. -/
theorem everyStreamBeginsWithOneCode : Obligations.EveryStreamBeginsWithOneCode := by
  unfold Obligations.EveryStreamBeginsWithOneCode
  intro b hb
  obtain ⟨c, hc, r, rfl⟩ := exists_codeBits_append_eq hb
  refine ⟨c, hc, ⟨r, rfl⟩, ?_⟩
  rintro c' hc' ⟨r', hsplit⟩
  have hsome : some (c', r') = some (c, r) := by
    rw [← decodeCode_codeBits hc', hsplit, decodeCode_codeBits hc]
  exact congrArg Prod.fst (Option.some.inj hsome)

end Sys2Proof.Proofs
end

section
/-! The decoder and the encoder are inverse on the words of the ROM and of the host registers (R99, R101), and on the
operations as R103 writes them. -/

namespace Sys2Proof

/-! ## ROM words -/

theorem decodeRom_romWord {k : Nat} {i : Instr} (h : romInstr k = some i) : decodeRom (romWord k) = .ok i := by
  unfold romInstr at h
  split at h
  case h_17 => cases h
  all_goals
    cases h
    decide

theorem encode_romInstr {k : Nat} {i : Instr} (h : romInstr k = some i) :
    encode i = .bits .rom (natBits 12 (romWord k).toNat) := by
  unfold romInstr at h
  split at h
  case h_17 => cases h
  all_goals
    cases h
    rfl

theorem wellFormed_romInstr {k : Nat} {i : Instr} (h : romInstr k = some i) : i.WellFormed = true := by
  unfold romInstr at h
  split at h
  case h_17 => cases h
  all_goals
    cases h
    rfl

theorem eq_romWord_of_decodeRom {w : BitVec 12} {i : Instr} (h : decodeRom w = .ok i) :
    ∃ k, romInstr k = some i ∧ romWord k = w := by
  unfold decodeRom at h
  split at h
  · rename_i i' hfind
    cases h
    obtain ⟨k, hk, hi⟩ := Option.bind_eq_some_iff.mp hfind
    exact ⟨k, hi, by simpa using List.find?_some hk⟩
  · cases h

/-! ## Host-register words -/

/-- Bit 0 of a `CTRL` word is the one apart from the reserved field (R32). -/
theorem decodeCtrl_append_one (r : BitVec 31) : decodeCtrl (r ++ 1#1) = .ctrlStart r := by
  have hbit : (r ++ 1#1).getLsbD 0 = true := by rw [BitVec.getLsbD_append]; rfl
  have hfield : (r ++ 1#1).extractLsb' 1 31 = r := BitVec.extractLsb'_append_eq_left
  rw [decodeCtrl, if_pos hbit, hfield]

theorem decodeCtrl_append_zero (r : BitVec 31) : decodeCtrl (r ++ 0#1) = .ctrlNop r := by
  have hbit : ¬ (r ++ 0#1).getLsbD 0 = true := by rw [BitVec.getLsbD_append]; exact Bool.false_ne_true
  have hfield : (r ++ 0#1).extractLsb' 1 31 = r := BitVec.extractLsb'_append_eq_left
  rw [decodeCtrl, if_neg hbit, hfield]

/-- A 32-bit word is its upper 31 bits followed by bit 0. -/
theorem eq_extractLsb'_append_bit (w : U32) :
    w = w.extractLsb' 1 31 ++ (if w.getLsbD 0 then 1#1 else 0#1 : BitVec 1) := by
  have hlow : (if w.getLsbD 0 then 1#1 else 0#1 : BitVec 1) = w.extractLsb' 0 1 := by
    ext k hk
    obtain rfl : k = 0 := by omega
    cases h : w.getLsbD 0 <;> simp_all
  rw [hlow]
  exact (BitVec.extractLsb'_append_extractLsb' (w := 31) (len := 1) (x := w)).symm

/-- A count word is bit 63 clear and the count below it (R36). -/
theorem eq_zero_append_of_getLsbD_63 {w : U64} (h : w.getLsbD 63 = false) : w = 0#1 ++ w.extractLsb' 0 63 := by
  have htop : w.extractLsb' 63 1 = 0#1 := by
    ext k hk
    obtain rfl : k = 0 := by omega
    simpa using h
  rw [← htop]
  exact (BitVec.extractLsb'_append_extractLsb' (w := 1) (len := 63) (x := w)).symm

theorem decodeResult_count (n : BitVec 63) : decodeResult (0#1 ++ n) = .ok (.resultCount n) := by
  have hbit : (0#1 ++ n).getLsbD 63 = false := by rw [BitVec.getLsbD_append]; rfl
  have hfield : (0#1 ++ n).extractLsb' 0 63 = n := BitVec.extractLsb'_append_eq_right
  rw [decodeResult, if_pos hbit, hfield]

/-! ## Frames of the host registers -/

theorem decode_rom_of_length {b : List Bool} (hb : b.length = 12) :
    decode (.bits .rom b) = decodeRom (BitVec.ofNat 12 (bitsNat b)) := if_pos hb

theorem decode_ctrl_of_length {b : List Bool} (hb : b.length = 32) :
    decode (.bits .ctrl b) = .ok (decodeCtrl (BitVec.ofNat 32 (bitsNat b))) := if_pos hb

theorem decode_status_of_length {b : List Bool} (hb : b.length = 32) :
    decode (.bits .status b) = decodeStatus (BitVec.ofNat 32 (bitsNat b)) := if_pos hb

theorem decode_result_of_length {b : List Bool} (hb : b.length = 64) :
    decode (.bits .result b) = decodeResult (BitVec.ofNat 64 (bitsNat b)) := if_pos hb

/-- The frame of a row of these formats is the bit string of its word. -/
theorem hostFrame_eq {i : Instr} {w : U64} (h : hostWord i = some w) (fmt : Fmt) (width : Nat) :
    hostFrame fmt width i = .bits fmt (natBits width w.toNat) := by
  rw [hostFrame, h, Option.getD_some]

/-- The same for a word of 32 bits. -/
theorem hostFrame_eq_of_u32 {i : Instr} {w : U32} (h : hostWord i = some (w.setWidth 64)) (fmt : Fmt) :
    hostFrame fmt 32 i = .bits fmt (natBits 32 w.toNat) := by
  rw [hostFrame_eq h, BitVec.toNat_setWidth_of_le (by decide)]

theorem encode_ctrlStart (r : BitVec 31) : encode (.ctrlStart r) = .bits .ctrl (natBits 32 (r ++ 1#1 : U32).toNat) :=
  hostFrame_eq_of_u32 rfl _

theorem encode_ctrlNop (r : BitVec 31) : encode (.ctrlNop r) = .bits .ctrl (natBits 32 (r ++ 0#1 : U32).toNat) :=
  hostFrame_eq_of_u32 rfl _

theorem encode_resultCount (n : BitVec 63) :
    encode (.resultCount n) = .bits .result (natBits 64 (0#1 ++ n : U64).toNat) :=
  hostFrame_eq rfl _ _

theorem encode_decodeCtrl (w : U32) : encode (decodeCtrl w) = .bits .ctrl (natBits 32 w.toNat) := by
  have hw := eq_extractLsb'_append_bit w
  unfold decodeCtrl
  split at hw <;> rename_i hbit
  · rw [if_pos hbit, encode_ctrlStart, ← hw]
  · rw [if_neg hbit, encode_ctrlNop, ← hw]

theorem encode_of_decodeStatus {w : U32} {i : Instr} (h : decodeStatus w = .ok i) :
    encode i = .bits .status (natBits 32 w.toNat) ∧ i.WellFormed = true := by
  unfold decodeStatus at h
  repeat' split at h
  case isFalse => cases h
  all_goals
    cases h
    subst w
    exact ⟨hostFrame_eq_of_u32 rfl _, rfl⟩

theorem encode_of_decodeResult {w : U64} {i : Instr} (h : decodeResult w = .ok i) :
    encode i = .bits .result (natBits 64 w.toNat) ∧ i.WellFormed = true := by
  unfold decodeResult at h
  split at h
  · rename_i hbit
    cases h
    exact ⟨by rw [encode_resultCount, ← eq_zero_append_of_getLsbD_63 hbit], rfl⟩
  · repeat' split at h
    case isFalse => cases h
    all_goals
      cases h
      subst w
      exact ⟨hostFrame_eq rfl _ _, rfl⟩

/-! ## Operations -/

theorem code_of_errKindOfCode {k : Nat} {e : ErrKind} (h : errKindOfCode k = some e) : e.code = k := by
  unfold errKindOfCode at h
  split at h <;> cases h <;> rfl

theorem errKindOfCode_code (e : ErrKind) : errKindOfCode e.code = some e := by
  cases e <;> rfl

/-- R103 writes an operation as a name with its arguments, and a call that decodes meets the precondition of R133. -/
theorem encode_of_decodeCall {op : OpName} {args : List Nat} {i : Instr} (h : decodeCall op args = .ok i) :
    encode i = .call op args ∧ i.WellFormed = true := by
  unfold decodeCall at h
  split at h
  case h_2 =>
    split at h
    · rename_i hc
      cases h
      exact ⟨rfl, decide_eq_true hc⟩
    · cases h
  case h_5 =>
    split at h
    · rename_i hp
      cases h
      exact ⟨by rw [encode, BitVec.toNat_ofNat, Nat.mod_eq_of_lt hp], rfl⟩
    · cases h
  case h_13 =>
    split at h
    · rename_i hk
      cases h
      exact ⟨by rw [encode, code_of_errKindOfCode hk], rfl⟩
    · cases h
  case h_15 => cases h
  all_goals
    cases h
    exact ⟨rfl, rfl⟩

/-! ## Round trips by format -/

theorem decode_symBits {c d : Nat} {i : Instr} (h : symInstr c d = some i) (hc : c ≤ 14) :
    decode (.bits .sym (symBits c d)) = .ok i := by
  have hread := decodeSym_symBits h hc []
  rw [List.append_nil] at hread
  simp only [decode, hread]

theorem decode_romFrame {k : Nat} {i : Instr} (h : romInstr k = some i) : decode (romFrame k) = .ok i := by
  rw [romFrame, decode_rom_of_length (natBits_length 12 _), ofNat_bitsNat_natBits, decodeRom_romWord h]

theorem decode_ctrl_word (w : U32) : decode (.bits .ctrl (natBits 32 w.toNat)) = .ok (decodeCtrl w) := by
  rw [decode_ctrl_of_length (natBits_length 32 _), ofNat_bitsNat_natBits]

theorem decode_status_word {w : U32} {i : Instr} (hword : hostWord i = some (w.setWidth 64)) (h : decodeStatus w = .ok i) :
    decode (hostFrame .status 32 i) = .ok i := by
  rw [hostFrame_eq_of_u32 hword, decode_status_of_length (natBits_length 32 _), ofNat_bitsNat_natBits, h]

theorem decode_result_word {w : U64} {i : Instr} (hword : hostWord i = some w) (h : decodeResult w = .ok i) :
    decode (hostFrame .result 64 i) = .ok i := by
  rw [hostFrame_eq hword, decode_result_of_length (natBits_length 64 _), ofNat_bitsNat_natBits, h]

end Sys2Proof

namespace Sys2Proof.Proofs
open Sys2Proof Sys2Proof.Machine Sys2Proof.Claims

/-- Settles O1, format by format: a symbol ends where its data ends, a word is read back from its bits, and a call names its
operation. -/
theorem decodeEncodeEveryInstruction : Obligations.DecodeEncodeEveryInstruction := by
  unfold Obligations.DecodeEncodeEveryInstruction
  intro i hwf
  cases i with
  | sym0 => exact decode_symBits rfl (by decide)
  | ctrlStart r => rw [encode_ctrlStart, decode_ctrl_word, decodeCtrl_append_one]
  | ctrlNop r => rw [encode_ctrlNop, decode_ctrl_word, decodeCtrl_append_zero]
  | statusIdle => exact decode_status_word (w := 0x0#32) rfl rfl
  | statusBusy => exact decode_status_word (w := 0x1#32) rfl rfl
  | statusDone => exact decode_status_word (w := 0x2#32) rfl rfl
  | statusErrSrcSmall => exact decode_status_word (w := 0x7#32) rfl rfl
  | statusErrNoHuff => exact decode_status_word (w := 0xB#32) rfl rfl
  | statusErrDstSmall => exact decode_status_word (w := 0xF#32) rfl rfl
  | resultSrcSmall | resultNoHuff | resultDstSmall => exact decode_result_word rfl rfl
  | resultCount n => exact decode_result_word rfl (decodeResult_count n)
  | rom0 | rom1 | rom2 | rom3 | rom4 | rom5 | rom6 | rom7 | rom8 | rom9 | rom10 | rom11 | rom12 | rom13 | rom14 | rom15 =>
    exact decode_romFrame rfl
  | sym1 d | sym2 d | sym3 d | sym4 d | sym5 d | sym6 d | sym7 d | sym8 d | sym9 d | sym10 d | sym11 d | sym12 d | sym13 d
  | sym14 d =>
    exact decode_symBits (by simp [symInstr]) (by decide)
  | appendBits c v => exact if_pos (of_decide_eq_true hwf)
  | observe row col pixel =>
    have hpixel : BitVec.ofNat 16 pixel.toNat = pixel := by simp
    rw [encode, decode, decodeCall, if_pos pixel.isLt, hpixel]
  | raise e => rw [encode, decode, decodeCall, errKindOfCode_code]
  | lookup | flush | predict | encode | start | checkSrc | init | rowCheck | pixel | finalFlush | reset => rfl

/-- Settles O2, format by format: what the decoder reads off a frame is written back as the same bits or the same call. -/
theorem encodeDecodeEveryFrame : Obligations.EncodeDecodeEveryFrame := by
  unfold Obligations.EncodeDecodeEveryFrame
  intro f i h
  match f with
  | .call op args => exact encode_of_decodeCall h
  | .bits .raw b => cases h
  | .bits .sym b =>
    simp only [decode] at h
    split at h
    · rename_i i' hread
      cases h
      obtain ⟨c, d, hi, rfl⟩ := eq_symBits_of_decodeSym hread
      rw [List.append_nil]
      exact ⟨encode_symInstr hi, wellFormed_symInstr hi⟩
    · cases h
    · cases h
  | .bits .rom b =>
    simp only [decode] at h
    split at h
    · rename_i hlen
      obtain ⟨k, hi, hword⟩ := eq_romWord_of_decodeRom h
      exact ⟨by rw [encode_romInstr hi, hword, natBits_toNat_ofNat_bitsNat hlen], wellFormed_romInstr hi⟩
    · cases h
  | .bits .ctrl b =>
    simp only [decode] at h
    split at h
    · rename_i hlen
      cases h
      refine ⟨by rw [encode_decodeCtrl, natBits_toNat_ofNat_bitsNat hlen], ?_⟩
      unfold decodeCtrl
      split <;> rfl
    · cases h
  | .bits .status b =>
    simp only [decode] at h
    split at h
    · rename_i hlen
      rw [← natBits_toNat_ofNat_bitsNat hlen]
      exact encode_of_decodeStatus h
    · cases h
  | .bits .result b =>
    simp only [decode] at h
    split at h
    · rename_i hlen
      rw [← natBits_toNat_ofNat_bitsNat hlen]
      exact encode_of_decodeResult h
    · cases h

/-- Settles O5: each word is written out from the tables, so the decoder runs on it. -/
theorem specWordsDecodeToTheirRows : Obligations.SpecWordsDecodeToTheirRows := by
  unfold Obligations.SpecWordsDecodeToTheirRows
  decide

end Sys2Proof.Proofs
end

section
/-! Bit strings cut in two, and words put together from a high and a low part: the arithmetic of the bit writer (R6, R24). -/

namespace Sys2Proof

/-- A bit string of `a + b` bits is that of its high part followed by that of its low part. -/
theorem natBits_add (a b v : Nat) : natBits (a + b) v = natBits a (v / 2 ^ b) ++ natBits b v := by
  induction a with
  | zero => rw [Nat.zero_add]; rfl
  | succ a ih =>
    have hbit : v.testBit (a + b) = (v / 2 ^ b).testBit a := by rw [Nat.testBit_div_two_pow]
    rw [Nat.succ_add, natBits, natBits, ih, hbit, List.cons_append]

theorem natBits_mul_add (a b x : Nat) {y : Nat} (hy : y < 2 ^ b) :
    natBits (a + b) (x * 2 ^ b + y) = natBits a x ++ natBits b y := by
  have hhigh : (x * 2 ^ b + y) / 2 ^ b = x := by
    rw [Nat.add_comm, Nat.add_mul_div_right _ _ (Nat.two_pow_pos b), Nat.div_eq_of_lt hy, Nat.zero_add]
  have hlow : natBits b (x * 2 ^ b + y) = natBits b y := by
    rw [← natBits_mod, Nat.mul_add_mod_self_right, natBits_mod]
  rw [natBits_add, hhigh, hlow]

theorem take_natBits (a b v : Nat) : (natBits (a + b) v).take a = natBits a (v / 2 ^ b) := by
  rw [natBits_add, List.take_left' (natBits_length a _)]

theorem natBits_zero (n : Nat) : natBits n 0 = List.replicate n false := by
  induction n with
  | zero => rfl
  | succ n ih => rw [natBits, ih, Nat.zero_testBit, List.replicate_succ]

/-! ## Words in two parts -/

/-- Where the low `k` bits of a word are clear, a number below `2^k` is put there by addition. -/
theorem toNat_or_ofNat {w : U32} {k y : Nat} (hk : k ≤ 32) (hw : w.toNat % 2 ^ k = 0) (hy : y < 2 ^ k) :
    (w ||| BitVec.ofNat 32 y).toNat = w.toNat + y := by
  have hsmall : y < 2 ^ 32 := hy.trans_le (Nat.pow_le_pow_right (by decide) hk)
  obtain ⟨x, hx⟩ := Nat.dvd_of_mod_eq_zero hw
  rw [BitVec.toNat_or, BitVec.toNat_ofNat, Nat.mod_eq_of_lt hsmall, hx, Nat.two_pow_add_eq_or_of_lt hy]

theorem ofNat_mul_or_ofNat (x : Nat) {k y : Nat} (hy : y < 2 ^ k) :
    BitVec.ofNat 32 (x * 2 ^ k) ||| BitVec.ofNat 32 y = BitVec.ofNat 32 (x * 2 ^ k + y) := by
  rw [Nat.mul_comm, Nat.two_pow_add_eq_or_of_lt hy, BitVec.ofNat_or]

theorem ofNat_shiftLeft (x k : Nat) : BitVec.ofNat 32 x <<< k = BitVec.ofNat 32 (x * 2 ^ k) := by
  apply BitVec.eq_of_toNat_eq
  simp [Nat.shiftLeft_eq, Nat.mod_mul_mod]

theorem ofNat_ushiftRight {x : Nat} (k : Nat) (hx : x < 2 ^ 32) : BitVec.ofNat 32 x >>> k = BitVec.ofNat 32 (x / 2 ^ k) := by
  apply BitVec.eq_of_toNat_eq
  rw [BitVec.toNat_ushiftRight, BitVec.toNat_ofNat, BitVec.toNat_ofNat, Nat.shiftRight_eq_div_pow, Nat.mod_eq_of_lt hx,
    Nat.mod_eq_of_lt ((Nat.div_le_self _ _).trans_lt hx)]

end Sys2Proof
end

section
/-! `appendBits` as three equations (R131, R71): the field fits, a word fills and is stored, a word fills and has no room. Two
appends are one append of both fields (R136), so a symbol is one append of its code and data (R92, R178). -/

namespace Sys2Proof.Machine

theorem nbits_lt (s : State) : s.nbits.toNat < 32 := s.nbits.isLt

theorem storeWord_of_room {s : State} (h : HasRoom s) (w : U32) (k : Nat) : storeWord w k s = .next (s.putWord w k) :=
  if_neg (by unfold HasRoom at h; omega)

theorem storeWord_of_no_room {s : State} (h : ¬ HasRoom s) (w : U32) (k : Nat) : storeWord w k s = .fault .dstOverrun :=
  if_pos (by unfold HasRoom at h; omega)

theorem toNat_ofNat_five {n : Nat} (h : n < 32) : (BitVec.ofNat 5 n).toNat = n := by
  rw [BitVec.toNat_ofNat, Nat.mod_eq_of_lt h]

theorem appendBits_of_lt {c : Nat} {s : State} (v : Nat) (h : s.nbits.toNat + c < 32) :
    appendBits c v s =
      .next (s.setAcc (s.acc ||| BitVec.ofNat 32 (v % 2 ^ c * 2 ^ (32 - (s.nbits.toNat + c)))) (s.nbits.toNat + c)) := by
  rw [appendBits, if_neg (by omega)]
  dsimp only
  rw [if_pos h, ofNat_shiftLeft, Nat.sub_sub]

/-- A field that reaches past the accumulator is stored down to its last `r` bits, and those are kept. -/
theorem appendBits_of_eq_add {c r : Nat} {s : State} (v : Nat) (hc : c < 32) (h : s.nbits.toNat + c = 32 + r) :
    appendBits c v s =
      andThen (storeWord (s.acc ||| BitVec.ofNat 32 (v % 2 ^ c / 2 ^ r)) 4 s) fun t =>
        .next (t.setAcc (BitVec.ofNat 32 (v % 2 ^ r * 2 ^ (32 - r))) r) := by
  have hn := nbits_lt s
  have hr : c - (32 - s.nbits.toNat) = r := by omega
  have hfield : v % 2 ^ c < 2 ^ 32 :=
    (Nat.mod_lt _ (Nat.two_pow_pos c)).trans (Nat.pow_lt_pow_right (by decide) hc)
  have hkept : (if r = 0 then 0#32 else BitVec.ofNat 32 (v % 2 ^ c % 2 ^ r) <<< (32 - r)) =
      BitVec.ofNat 32 (v % 2 ^ r * 2 ^ (32 - r)) := by
    rw [ofNat_shiftLeft, Nat.mod_mod_of_dvd v (pow_dvd_pow 2 (by omega))]
    split
    · rename_i hzero
      rw [hzero, pow_zero, Nat.mod_one, Nat.zero_mul]
    · rfl
  rw [appendBits, if_neg (by omega)]
  dsimp only
  rw [if_neg (by omega), hr, hkept, ofNat_ushiftRight r hfield]

theorem appendBits_of_no_room {c : Nat} {s : State} (v : Nat) (hc : c < 32) (hfill : 32 ≤ s.nbits.toNat + c)
    (hroom : ¬ HasRoom s) : appendBits c v s = .fault .dstOverrun := by
  obtain ⟨r, hr⟩ := Nat.exists_eq_add_of_le hfill
  rw [appendBits_of_eq_add v hc hr, storeWord_of_no_room hroom, andThen_fault]

/-! ## Two appends -/

theorem mod_two_pow_mul_add_lt (v1 v2 c1 c2 : Nat) : v1 % 2 ^ c1 * 2 ^ c2 + v2 % 2 ^ c2 < 2 ^ (c1 + c2) := by
  have h1 : v1 % 2 ^ c1 + 1 ≤ 2 ^ c1 := Nat.mod_lt _ (Nat.two_pow_pos c1)
  have h2 : v2 % 2 ^ c2 < 2 ^ c2 := Nat.mod_lt _ (Nat.two_pow_pos c2)
  calc v1 % 2 ^ c1 * 2 ^ c2 + v2 % 2 ^ c2 < (v1 % 2 ^ c1 + 1) * 2 ^ c2 := by rw [Nat.succ_mul]; omega
    _ ≤ 2 ^ c1 * 2 ^ c2 := Nat.mul_le_mul_right _ h1
    _ = 2 ^ (c1 + c2) := (pow_add 2 c1 c2).symm

theorem mul_add_div_two_pow (x y : Nat) {c r : Nat} (hr : r ≤ c) :
    (x * 2 ^ c + y) / 2 ^ r = x * 2 ^ (c - r) + y / 2 ^ r := by
  have hc : 2 ^ c = 2 ^ (c - r) * 2 ^ r := by rw [← pow_add, Nat.sub_add_cancel hr]
  rw [hc, ← Nat.mul_assoc, Nat.add_comm, Nat.add_mul_div_right _ _ (Nat.two_pow_pos r), Nat.add_comm]

theorem mul_add_mod_two_pow (x v : Nat) {c r : Nat} (hr : r ≤ c) : (x * 2 ^ c + v % 2 ^ c) % 2 ^ r = v % 2 ^ r := by
  obtain ⟨q, hq⟩ : 2 ^ r ∣ x * 2 ^ c := (pow_dvd_pow 2 hr).mul_left x
  rw [hq, Nat.mul_add_mod_self_left, Nat.mod_mod_of_dvd v (pow_dvd_pow 2 hr)]

theorem mul_add_mod_two_pow_add (x r : Nat) {c : Nat} {y : Nat} (hy : y < 2 ^ c) :
    (x * 2 ^ c + y) % 2 ^ (r + c) = x % 2 ^ r * 2 ^ c + y := by
  rw [Nat.add_comm r c, pow_add, Nat.mod_mul, Nat.mul_add_mod_self_right, Nat.mod_eq_of_lt hy,
    Nat.add_comm (x * _), Nat.add_mul_div_right _ _ (Nat.two_pow_pos c), Nat.div_eq_of_lt hy, Nat.zero_add, Nat.add_comm,
    Nat.mul_comm]

/-- A field and the field below it are the one field of both, wherever they stand in the word. -/
theorem ofNat_or_fields (x : Nat) {y c k j : Nat} (hy : y < 2 ^ c) (hj : j = k + c) :
    BitVec.ofNat 32 (x * 2 ^ j) ||| BitVec.ofNat 32 (y * 2 ^ k) = BitVec.ofNat 32 ((x * 2 ^ c + y) * 2 ^ k) := by
  have hlow : y * 2 ^ k < 2 ^ j := by
    rw [hj, Nat.add_comm, pow_add]
    exact Nat.mul_lt_mul_of_pos_right hy (Nat.two_pow_pos k)
  rw [ofNat_mul_or_ofNat x hlow, Nat.add_mul, Nat.mul_assoc, ← pow_add, hj, Nat.add_comm c]

theorem storeWord_setAcc (w : U32) (k : Nat) (s : State) (a : U32) (n : Nat) :
    storeWord w k (s.setAcc a n) = andThen (storeWord w k s) fun t => .next (t.setAcc a n) := by
  by_cases hroom : HasRoom s
  · rw [storeWord_of_room hroom, andThen_next]
    exact storeWord_of_room (s := s.setAcc a n) hroom w k
  · rw [storeWord_of_no_room hroom, andThen_fault]
    exact storeWord_of_no_room (s := s.setAcc a n) hroom w k

/-- Two appends are one append of the first field followed by the second (R136), also where a word does not fit. -/
theorem appendBits_append (c1 c2 v1 v2 : Nat) (s : State) (h : c1 + c2 ≤ 31) :
    andThen (appendBits c1 v1 s) (appendBits c2 v2) =
      appendBits (c1 + c2) (v1 % 2 ^ c1 * 2 ^ c2 + v2 % 2 ^ c2) s := by
  have hn := nbits_lt s
  have hlow : v2 % 2 ^ c2 < 2 ^ c2 := Nat.mod_lt _ (Nat.two_pow_pos c2)
  have hboth := Nat.mod_eq_of_lt (mod_two_pow_mul_add_lt v1 v2 c1 c2)
  rcases lt_or_ge (s.nbits.toNat + c1) 32 with h1 | h1
  · have hn1 := toNat_ofNat_five h1
    rw [appendBits_of_lt v1 h1, andThen_next]
    rcases lt_or_ge (s.nbits.toNat + c1 + c2) 32 with h2 | h2
    · -- both fields fit
      rw [appendBits_of_lt v2 (by rwa [State.setAcc_nbits, hn1]), appendBits_of_lt _ (by omega), hboth,
        State.setAcc_acc, State.setAcc_nbits, hn1, BitVec.or_assoc,
        ofNat_or_fields _ hlow (by omega), Nat.add_assoc]
      rfl
    · -- the second field fills the word
      obtain ⟨r, hr⟩ := Nat.exists_eq_add_of_le h2
      have hdiv := mul_add_div_two_pow (v1 % 2 ^ c1) (v2 % 2 ^ c2) (show r ≤ c2 by omega)
      have hmod := mul_add_mod_two_pow (v1 % 2 ^ c1) v2 (show r ≤ c2 by omega)
      have hstored : v2 % 2 ^ c2 / 2 ^ r < 2 ^ (c2 - r) := by
        rwa [Nat.div_lt_iff_lt_mul (Nat.two_pow_pos r), ← pow_add, Nat.sub_add_cancel (by omega)]
      rw [appendBits_of_eq_add v2 (by omega) (by rwa [State.setAcc_nbits, hn1]),
        appendBits_of_eq_add _ (by omega) (by omega : _ = 32 + r), hboth, hdiv, hmod, storeWord_setAcc, andThen_assoc,
        State.setAcc_acc, BitVec.or_assoc, show 32 - (s.nbits.toNat + c1) = c2 - r by omega,
        ofNat_mul_or_ofNat _ hstored]
      rfl
  · -- the first field fills the word, and the second fits into the next
    obtain ⟨r, hr⟩ := Nat.exists_eq_add_of_le h1
    have hdiv : (v1 % 2 ^ c1 * 2 ^ c2 + v2 % 2 ^ c2) / 2 ^ (r + c2) = v1 % 2 ^ c1 / 2 ^ r := by
      rw [Nat.add_comm r c2, pow_add, ← Nat.div_div_eq_div_mul, mul_add_div_two_pow _ _ le_rfl, Nat.div_eq_of_lt hlow,
        Nat.sub_self, pow_zero, Nat.mul_one, Nat.add_zero]
    have hmod : (v1 % 2 ^ c1 * 2 ^ c2 + v2 % 2 ^ c2) % 2 ^ (r + c2) = v1 % 2 ^ r * 2 ^ c2 + v2 % 2 ^ c2 := by
      rw [mul_add_mod_two_pow_add _ r hlow, Nat.mod_mod_of_dvd v1 (pow_dvd_pow 2 (by omega))]
    have hfull : r + c2 < 32 := by omega
    have hnr : (BitVec.ofNat 5 r).toNat = r := toNat_ofNat_five (by omega)
    rw [appendBits_of_eq_add v1 (by omega) hr, appendBits_of_eq_add _ (by omega) (by omega : _ = 32 + (r + c2)), hboth,
      hdiv, hmod, andThen_assoc]
    congr 1
    funext t
    rw [andThen_next, appendBits_of_lt v2 (by rwa [State.setAcc_nbits, hnr]), State.setAcc_acc, State.setAcc_nbits, hnr,
      ofNat_or_fields _ hlow (by omega)]
    rfl

/-! ## A symbol -/

/-- A symbol is one append of its code with its data below it (R92, R178). -/
theorem emitSymbol_eq_appendBits {c len code : Nat} (hentry : codeEntry c = some (len, code)) (hlen : len + c ≤ 31)
    (hcode : code < 2 ^ len) (d : Nat) (s : State) :
    emitSymbol c d s = appendBits (len + c) (code * 2 ^ c + d % 2 ^ c) s := by
  rw [emitSymbol_eq d s hentry, appendBits_append len c code d s hlen, Nat.mod_eq_of_lt hcode]

theorem symBits_eq_natBits {c len code : Nat} (hentry : codeEntry c = some (len, code)) (d : Nat) :
    symBits c d = natBits (len + c) (code * 2 ^ c + d % 2 ^ c) := by
  rw [natBits_mul_add _ _ _ (Nat.mod_lt _ (Nat.two_pow_pos c)), natBits_mod, symBits, codeBits, hentry]

/-- What a symbol of a class with a code appends: at most 22 bits, in one append. -/
theorem exists_emitSymbol_eq_appendBits {c : Nat} (hc : c ≤ 14) (d : Nat) :
    ∃ n v, n ≤ 22 ∧ symBits c d = natBits n v ∧ ∀ s, emitSymbol c d s = appendBits n v s := by
  obtain ⟨len, code, hentry, -, hlen, hcode⟩ := codeEntry_some hc
  exact ⟨len + c, code * 2 ^ c + d % 2 ^ c, by omega, symBits_eq_natBits hentry d,
    emitSymbol_eq_appendBits hentry (by omega) hcode d⟩

end Sys2Proof.Machine

namespace Sys2Proof.Proofs
open Sys2Proof Sys2Proof.Machine Sys2Proof.Claims

/-- Settles O12: `exec` of `appendBits` is the writer's operation, and its fields may be cut anywhere. -/
theorem appendsMayBeCutAnywhere : Obligations.AppendsMayBeCutAnywhere := by
  unfold Obligations.AppendsMayBeCutAnywhere
  intro c1 c2 v1 v2 s h
  exact appendBits_append c1 c2 v1 v2 s h

/-- Settles O13: the precondition is tested before anything else. -/
theorem appendBitsRefusesAWholeWord : Obligations.AppendBitsRefusesAWholeWord := by
  unfold Obligations.AppendBitsRefusesAWholeWord
  intro c v s hc
  exact if_pos hc

/-- Settles O11: a field of no bits always fits and adds no bit to `acc`. -/
theorem appendZeroBitsDoesNothing : Obligations.AppendZeroBitsDoesNothing := by
  unfold Obligations.AppendZeroBitsDoesNothing
  intro v s
  have hnbits : BitVec.ofNat 5 s.nbits.toNat = s.nbits := by simp
  have happend := appendBits_of_lt (c := 0) v (nbits_lt s)
  rw [pow_zero, Nat.mod_one, Nat.zero_mul, BitVec.or_zero, Nat.add_zero, State.setAcc, hnbits] at happend
  exact happend

end Sys2Proof.Proofs
end

section
/-! What the writer does to the stream (R42 (d), R63, R91): the bits of `DST` before `cursor` and the bits held. A field that
fits is added to the held bits; a word that fills moves them into `DST`, and what is left of the field is held. -/

namespace Sys2Proof.Machine
open Sys2Proof.Claims

/-! ## The bytes of a word -/

theorem toNat_wordByte (w : U32) (k : Nat) : (wordByte w k).toNat = w.toNat / 2 ^ (24 - 8 * k) % 256 := by
  rw [wordByte, BitVec.extractLsb'_toNat, Nat.shiftRight_eq_div_pow]

theorem natBits_toNat_wordByte (w : U32) (k : Nat) :
    natBits 8 (wordByte w k).toNat = natBits 8 (w.toNat / 2 ^ (24 - 8 * k)) := by
  rw [toNat_wordByte]
  exact natBits_mod 8 _

/-- The four bytes of a word, most significant first, are its bits (R63). -/
theorem natBits_wordBytes (w : U32) :
    (List.range 4).flatMap (fun k => natBits 8 (wordByte w k).toNat) = natBits 32 w.toNat := by
  have hcut : natBits 32 w.toNat = natBits 8 (w.toNat / 2 ^ 24) ++ (natBits 8 (w.toNat / 2 ^ 16) ++
      (natBits 8 (w.toNat / 2 ^ 8) ++ natBits 8 w.toNat)) := by
    rw [← natBits_add 8 8, ← natBits_add 8 16, ← natBits_add 8 24]
  have hrange : List.range 4 = [0, 1, 2, 3] := rfl
  simp [natBits_toNat_wordByte, hcut, hrange]

/-! ## The bytes written -/

theorem dstBits_congr {s t : State} {n : Nat} (h : ∀ a < n, t.dst.read a = s.dst.read a) : dstBits t n = dstBits s n := by
  refine List.flatMap_congr fun k hk => ?_
  rw [dstByte, dstByte, h k (List.mem_range.mp hk)]

theorem dstBits_add (s : State) (n k : Nat) :
    dstBits s (n + k) = dstBits s n ++ (List.range k).flatMap fun j => natBits 8 (dstByte s (n + j)).toNat := by
  rw [dstBits, List.range_add, List.flatMap_append, List.flatMap_map]
  rfl

theorem dstByte_of_writeWord {s t : State} {n k : Nat} {w : U32} (h : t.dst = s.dst.writeWord n w) (hk : k < 4) :
    dstByte t (n + k) = wordByte w k := by
  rw [dstByte, h, Memory.read_writeWord _ _ _ _ hk, Option.getD_some]

theorem dstBits_of_writeWord {s t : State} {n : Nat} {w : U32} (h : t.dst = s.dst.writeWord n w) :
    dstBits t (n + 4) = dstBits s n ++ natBits 32 w.toNat := by
  have hbelow : dstBits t n = dstBits s n :=
    dstBits_congr fun a ha => by rw [h, Memory.read_writeWord_other _ _ (.inl ha)]
  have hword : (List.range 4).flatMap (fun j => natBits 8 (dstByte t (n + j)).toNat) = natBits 32 w.toNat := by
    rw [← natBits_wordBytes w]
    exact List.flatMap_congr fun j hj => by rw [dstByte_of_writeWord h (List.mem_range.mp hj)]
  rw [dstBits_add, hbelow, hword]

/-! ## The bits held -/

/-- The accumulator is clean where it holds a number of `nbits` bits, left-aligned (R24). -/
theorem accClean_iff {s : State} : AccClean s ↔ ∃ a, s.acc.toNat = a * 2 ^ (32 - s.nbits.toNat) := by
  rw [AccClean, ← Nat.dvd_iff_mod_eq_zero]
  exact exists_congr fun a => by rw [Nat.mul_comm]

theorem heldBits_of_acc_eq {s : State} {a : Nat} (h : s.acc.toNat = a * 2 ^ (32 - s.nbits.toNat)) :
    heldBits s = natBits s.nbits.toNat a := by
  have h32 : 32 = s.nbits.toNat + (32 - s.nbits.toNat) := by have := nbits_lt s; omega
  calc heldBits s = (natBits (s.nbits.toNat + (32 - s.nbits.toNat)) s.acc.toNat).take s.nbits.toNat := by rw [← h32, heldBits]
    _ = natBits s.nbits.toNat a := by rw [take_natBits, h, Nat.mul_div_cancel _ (Nat.two_pow_pos _)]

/-- The bits of a clean accumulator with a number below the held bits. -/
theorem natBits_acc_add {s : State} (h : AccClean s) {y : Nat} (hy : y < 2 ^ (32 - s.nbits.toNat)) :
    natBits 32 (s.acc.toNat + y) = heldBits s ++ natBits (32 - s.nbits.toNat) y := by
  have h32 : 32 = s.nbits.toNat + (32 - s.nbits.toNat) := by have := nbits_lt s; omega
  obtain ⟨a, ha⟩ := accClean_iff.mp h
  calc natBits 32 (s.acc.toNat + y)
      = natBits (s.nbits.toNat + (32 - s.nbits.toNat)) (a * 2 ^ (32 - s.nbits.toNat) + y) := by rw [← h32, ha]
    _ = heldBits s ++ natBits (32 - s.nbits.toNat) y := by rw [natBits_mul_add _ _ _ hy, heldBits_of_acc_eq ha]

/-! ## A field that fits -/

theorem field_lt (v : Nat) {n c : Nat} (h : n + c ≤ 32) : v % 2 ^ c * 2 ^ (32 - (n + c)) < 2 ^ (32 - n) := by
  have hpow : 2 ^ (32 - n) = 2 ^ c * 2 ^ (32 - (n + c)) := by rw [← pow_add]; congr 1; omega
  rw [hpow]
  exact Nat.mul_lt_mul_of_pos_right (Nat.mod_lt _ (Nat.two_pow_pos c)) (Nat.two_pow_pos _)

theorem toNat_acc_or_field {s : State} {c : Nat} (v : Nat) (hclean : AccClean s) (h : s.nbits.toNat + c < 32) :
    (s.acc ||| BitVec.ofNat 32 (v % 2 ^ c * 2 ^ (32 - (s.nbits.toNat + c)))).toNat =
      s.acc.toNat + v % 2 ^ c * 2 ^ (32 - (s.nbits.toNat + c)) :=
  toNat_or_ofNat (Nat.sub_le _ _) hclean (field_lt v h.le)

/-- The accumulator with the field put in holds the old bits and the field's. -/
theorem acc_add_field_eq {s : State} {a c : Nat} (v : Nat) (ha : s.acc.toNat = a * 2 ^ (32 - s.nbits.toNat))
    (h : s.nbits.toNat + c < 32) :
    s.acc.toNat + v % 2 ^ c * 2 ^ (32 - (s.nbits.toNat + c)) =
      (a * 2 ^ c + v % 2 ^ c) * 2 ^ (32 - (s.nbits.toNat + c)) := by
  have hexp : 32 - s.nbits.toNat = c + (32 - (s.nbits.toNat + c)) := by omega
  rw [ha, hexp, pow_add, Nat.add_mul, Nat.mul_assoc]

/-- The writer after a field that fits. -/
def withField (s : State) (c v : Nat) : State :=
  s.setAcc (s.acc ||| BitVec.ofNat 32 (v % 2 ^ c * 2 ^ (32 - (s.nbits.toNat + c)))) (s.nbits.toNat + c)

theorem nbits_withField {s : State} {c : Nat} (v : Nat) (h : s.nbits.toNat + c < 32) :
    (withField s c v).nbits.toNat = s.nbits.toNat + c := toNat_ofNat_five h

theorem withField_held {s : State} {c : Nat} (v : Nat) (hclean : AccClean s) (h : s.nbits.toNat + c < 32) :
    AccClean (withField s c v) ∧ heldBits (withField s c v) = heldBits s ++ natBits c v := by
  obtain ⟨a, ha⟩ := accClean_iff.mp hclean
  have hnbits := nbits_withField v h
  have hacc : (withField s c v).acc.toNat = (a * 2 ^ c + v % 2 ^ c) * 2 ^ (32 - (withField s c v).nbits.toNat) := by
    rw [hnbits, ← acc_add_field_eq v ha h, ← toNat_acc_or_field v hclean h]
    rfl
  refine ⟨accClean_iff.mpr ⟨_, hacc⟩, ?_⟩
  rw [heldBits_of_acc_eq hacc, hnbits, natBits_mul_add _ _ _ (Nat.mod_lt _ (Nat.two_pow_pos c)), natBits_mod,
    heldBits_of_acc_eq ha]

/-! ## A field that fills the word -/

/-- The writer after a field whose last `r` bits are left over from a full word. -/
def withWord (s : State) (c r v : Nat) : State :=
  (s.putWord (s.acc ||| BitVec.ofNat 32 (v % 2 ^ c / 2 ^ r)) 4).setAcc (BitVec.ofNat 32 (v % 2 ^ r * 2 ^ (32 - r))) r

theorem stored_lt (v : Nat) {n c r : Nat} (h : n + c = 32 + r) (hn : n < 32) : v % 2 ^ c / 2 ^ r < 2 ^ (32 - n) := by
  rw [Nat.div_lt_iff_lt_mul (Nat.two_pow_pos r), ← pow_add, show 32 - n + r = c by omega]
  exact Nat.mod_lt _ (Nat.two_pow_pos c)

theorem toNat_acc_or_stored {s : State} {c r : Nat} (v : Nat) (hclean : AccClean s) (h : s.nbits.toNat + c = 32 + r) :
    (s.acc ||| BitVec.ofNat 32 (v % 2 ^ c / 2 ^ r)).toNat = s.acc.toNat + v % 2 ^ c / 2 ^ r :=
  toNat_or_ofNat (Nat.sub_le _ _) hclean (stored_lt v h (nbits_lt s))

theorem acc_withWord (s : State) (c v : Nat) {r : Nat} (hr : r ≤ 32) :
    (withWord s c r v).acc.toNat = v % 2 ^ r * 2 ^ (32 - r) := by
  have hlt : v % 2 ^ r * 2 ^ (32 - r) < 2 ^ 32 := by simpa using field_lt v (n := 0) (c := r) (by omega)
  exact (BitVec.toNat_ofNat _ _).trans (Nat.mod_eq_of_lt hlt)

theorem withWord_held (s : State) (c v : Nat) {r : Nat} (hr : r < 32) :
    AccClean (withWord s c r v) ∧ heldBits (withWord s c r v) = natBits r v := by
  have hnbits : (withWord s c r v).nbits.toNat = r := toNat_ofNat_five hr
  have hacc : (withWord s c r v).acc.toNat = v % 2 ^ r * 2 ^ (32 - (withWord s c r v).nbits.toNat) := by
    rw [hnbits, acc_withWord s c v hr.le]
  exact ⟨accClean_iff.mpr ⟨_, hacc⟩, by rw [heldBits_of_acc_eq hacc, hnbits, natBits_mod]⟩

/-- The stream grows by the whole field, a part of it in the word and the rest held. -/
theorem streamBits_withWord {s : State} {c r : Nat} (v : Nat) (hclean : AccClean s) (h : s.nbits.toNat + c = 32 + r)
    (hc : c < 32) (hroom : HasRoom s) : streamBits (withWord s c r v) = streamBits s ++ natBits c v := by
  have hn := nbits_lt s
  have hcursor : (withWord s c r v).cursor.toNat = s.cursor.toNat + 4 :=
    cursor_putWord (s.acc ||| BitVec.ofNat 32 (v % 2 ^ c / 2 ^ r)) 4 hroom
  have hfield : natBits c v = natBits (32 - s.nbits.toNat) (v % 2 ^ c / 2 ^ r) ++ natBits r v := by
    have hlow : natBits r (v % 2 ^ c) = natBits r v := by
      rw [← natBits_mod, Nat.mod_mod_of_dvd v (pow_dvd_pow 2 (by omega)), natBits_mod]
    rw [← natBits_mod, ← hlow, ← natBits_add, show 32 - s.nbits.toNat + r = c by omega]
  have hdst : dstBits (withWord s c r v) (s.cursor.toNat + 4) =
      dstBits s s.cursor.toNat ++ (heldBits s ++ natBits (32 - s.nbits.toNat) (v % 2 ^ c / 2 ^ r)) := by
    rw [← natBits_acc_add hclean (stored_lt v h hn), ← toNat_acc_or_stored v hclean h]
    exact dstBits_of_writeWord rfl
  rw [streamBits, hcursor, hdst, (withWord_held s c v (by omega)).2, hfield, streamBits]
  simp only [List.append_assoc]

/-! ## Both together -/

theorem appendBits_eq_withField {c : Nat} {s : State} (v : Nat) (h : s.nbits.toNat + c < 32) :
    appendBits c v s = .next (withField s c v) := appendBits_of_lt v h

theorem appendBits_eq_withWord {c r : Nat} {s : State} (v : Nat) (hc : c < 32) (h : s.nbits.toNat + c = 32 + r)
    (hroom : HasRoom s) : appendBits c v s = .next (withWord s c r v) := by
  rw [appendBits_of_eq_add v hc h, storeWord_of_room hroom, andThen_next]
  rfl

/-- What holds of the writer once a bit string has been appended: it fitted, only the writer has moved, and the stream of a
clean accumulator is longer by it (R130, R131, R135). -/
structure Appended (s t : State) (bits : List Bool) : Prop where
  fits : Fits s bits.length
  onlyWriter : OnlyWriter s t
  moved : WriterMoved s t bits.length
  canonical : s.dst.wf = true → t.dst.wf = true
  clean : AccClean s → AccClean t
  stream : AccClean s → streamBits t = streamBits s ++ bits

theorem withField_appended {s : State} {c : Nat} (v : Nat) (h : s.nbits.toNat + c < 32) :
    Appended s (withField s c v) (natBits c v) where
  fits := .inl (by rwa [natBits_length])
  onlyWriter := rfl
  moved := by
    rw [natBits_length, WriterMoved, if_pos h]
    exact ⟨nbits_withField v h, rfl, rfl, rfl⟩
  canonical hwf := hwf
  clean hclean := (withField_held v hclean h).1
  stream hclean := by
    rw [streamBits, (withField_held v hclean h).2, ← List.append_assoc]
    rfl

theorem withWord_appended {s : State} {c r : Nat} (v : Nat) (hc : c < 32) (h : s.nbits.toNat + c = 32 + r)
    (hroom : HasRoom s) : Appended s (withWord s c r v) (natBits c v) where
  fits := .inr hroom
  onlyWriter := rfl
  moved := by
    rw [natBits_length, WriterMoved, if_neg (by omega), h, Nat.add_sub_cancel_left]
    exact ⟨toNat_ofNat_five (by have := nbits_lt s; omega), rfl, rfl, fun a ha => Memory.read_writeWord_other _ _ ha⟩
  canonical hwf := Memory.wf_writeWord _ _ _ hwf
  clean _ := (withWord_held s c v (by have := nbits_lt s; omega)).1
  stream hclean := streamBits_withWord v hclean h hc hroom

/-- An append of fewer than 32 bits that fits extends the stream by the field. -/
theorem appendBits_appended {c : Nat} {s : State} (v : Nat) (hc : c < 32) (hfits : Fits s c) :
    ∃ t, appendBits c v s = .next t ∧ Appended s t (natBits c v) := by
  rcases lt_or_ge (s.nbits.toNat + c) 32 with h | h
  · exact ⟨_, appendBits_eq_withField v h, withField_appended v h⟩
  · obtain ⟨r, hr⟩ := Nat.exists_eq_add_of_le h
    have hroom : HasRoom s := hfits.resolve_left (not_lt.mpr h)
    exact ⟨_, appendBits_eq_withWord v hc hr hroom, withWord_appended v hc hr hroom⟩

/-- A symbol that fits extends the stream by its code and data. -/
theorem emitSymbol_appended {c : Nat} {s : State} (d : Nat) (hc : c ≤ 14) (hfits : Fits s (symBits c d).length) :
    ∃ t, emitSymbol c d s = .next t ∧ Appended s t (symBits c d) := by
  obtain ⟨n, v, hn, hbits, hemit⟩ := exists_emitSymbol_eq_appendBits hc d
  rw [hbits, natBits_length] at hfits
  rw [hbits, hemit]
  exact appendBits_appended v (by omega) hfits

theorem emitSymbol_of_no_room {c : Nat} {s : State} (d : Nat) (hc : c ≤ 14)
    (hfill : 32 ≤ s.nbits.toNat + (symBits c d).length) (hroom : ¬ HasRoom s) : emitSymbol c d s = .fault .dstOverrun := by
  obtain ⟨n, v, hn, hbits, hemit⟩ := exists_emitSymbol_eq_appendBits hc d
  rw [hbits, natBits_length] at hfill
  rw [hemit, appendBits_of_no_room v (by omega) hfill hroom]

/-- A symbol row appends the symbol of its class and data field (R93). -/
theorem exec_of_symbolPattern {i : Instr} {bits : List Bool} (h : symbolPattern i = some bits) :
    ∃ c d, c ≤ 14 ∧ bits = symBits c d ∧ ∀ s, exec i s = emitSymbol c d s := by
  cases i with
  | sym0 => cases h; exact ⟨0, 0, by decide, rfl, fun _ => rfl⟩
  | sym1 d => cases h; exact ⟨1, d.toNat, by decide, rfl, fun _ => rfl⟩
  | sym2 d => cases h; exact ⟨2, d.toNat, by decide, rfl, fun _ => rfl⟩
  | sym3 d => cases h; exact ⟨3, d.toNat, by decide, rfl, fun _ => rfl⟩
  | sym4 d => cases h; exact ⟨4, d.toNat, by decide, rfl, fun _ => rfl⟩
  | sym5 d => cases h; exact ⟨5, d.toNat, by decide, rfl, fun _ => rfl⟩
  | sym6 d => cases h; exact ⟨6, d.toNat, by decide, rfl, fun _ => rfl⟩
  | sym7 d => cases h; exact ⟨7, d.toNat, by decide, rfl, fun _ => rfl⟩
  | sym8 d => cases h; exact ⟨8, d.toNat, by decide, rfl, fun _ => rfl⟩
  | sym9 d => cases h; exact ⟨9, d.toNat, by decide, rfl, fun _ => rfl⟩
  | sym10 d => cases h; exact ⟨10, d.toNat, by decide, rfl, fun _ => rfl⟩
  | sym11 d => cases h; exact ⟨11, d.toNat, by decide, rfl, fun _ => rfl⟩
  | sym12 d => cases h; exact ⟨12, d.toNat, by decide, rfl, fun _ => rfl⟩
  | sym13 d => cases h; exact ⟨13, d.toNat, by decide, rfl, fun _ => rfl⟩
  | sym14 d => cases h; exact ⟨14, d.toNat, by decide, rfl, fun _ => rfl⟩
  | _ => cases h

/-! ## The last word -/

theorem flush_of_empty {s : State} (h : s.nbits = 0#5) : flush s = .next s := if_neg (by simp [h])

/-- The writer after the padded last word (R134). -/
def padded (s : State) : State :=
  (s.putWord s.acc ((s.nbits.toNat + 7) / 8)).setAcc 0#32 0

theorem flush_of_held {s : State} (h : s.nbits ≠ 0#5) :
    flush s = andThen (storeWord s.acc ((s.nbits.toNat + 7) / 8) s) fun t => .next (t.setAcc 0#32 0) := by
  have hn := nbits_lt s
  have hpos : 0 < s.nbits.toNat := Nat.pos_of_ne_zero fun h0 => h (BitVec.eq_of_toNat_eq h0)
  rw [flush, if_pos hpos, show 4 - (32 - s.nbits.toNat) / 8 = (s.nbits.toNat + 7) / 8 by omega]

theorem flush_eq_padded {s : State} (h : s.nbits ≠ 0#5) (hroom : HasRoom s) : flush s = .next (padded s) := by
  rw [flush_of_held h, storeWord_of_room hroom, andThen_next, padded]

theorem flush_of_no_room {s : State} (h : s.nbits ≠ 0#5) (hroom : ¬ HasRoom s) : flush s = .fault .dstOverrun := by
  rw [flush_of_held h, storeWord_of_no_room hroom, andThen_fault]

end Sys2Proof.Machine

namespace Sys2Proof.Proofs
open Sys2Proof Sys2Proof.Machine Sys2Proof.Claims

/-- Settles O9: `exec` of `appendBits` is the writer's operation. -/
theorem appendBitsExtendsTheStream : Obligations.AppendBitsExtendsTheStream := by
  unfold Obligations.AppendBitsExtendsTheStream
  intro c v s hc hclean hfits
  obtain ⟨t, hexec, happ⟩ := appendBits_appended v hc hfits
  have hmoved := happ.moved
  rw [natBits_length] at hmoved
  exact ⟨t, hexec, happ.stream hclean, happ.clean hclean, happ.onlyWriter, hmoved⟩

/-- Settles O8: a symbol row is the append of its symbol. -/
theorem symbolAppendsItsPattern : Obligations.SymbolAppendsItsPattern := by
  unfold Obligations.SymbolAppendsItsPattern
  intro i bits s hpattern hclean hfits
  obtain ⟨c, d, hc, rfl, hexec⟩ := exec_of_symbolPattern hpattern
  obtain ⟨t, hemit, happ⟩ := emitSymbol_appended d hc hfits
  exact ⟨t, (hexec s).trans hemit, happ.stream hclean, happ.clean hclean, happ.onlyWriter, happ.moved⟩

/-- Settles O10: the field that fits is added in its place; the word that fills takes its high part, and its low part starts
the next word. -/
theorem appendBitsComputesAcc : Obligations.AppendBitsComputesAcc := by
  unfold Obligations.AppendBitsComputesAcc
  intro c v s hc hclean hfits
  rcases lt_or_ge (s.nbits.toNat + c) 32 with h | h
  · refine ⟨_, appendBits_eq_withField v h, ?_⟩
    rw [if_pos h, Nat.sub_sub]
    exact toNat_acc_or_field v hclean h
  · obtain ⟨r, hr⟩ := Nat.exists_eq_add_of_le h
    have hn := nbits_lt s
    refine ⟨_, appendBits_eq_withWord v hc hr (hfits.resolve_left (not_lt.mpr h)), ?_⟩
    have hlt : v % 2 ^ r * 2 ^ (32 - r) < 2 ^ 32 := by
      rw [← acc_withWord s c v (show r ≤ 32 by omega)]
      exact (withWord s c r v).acc.isLt
    rw [if_neg (not_lt.mpr h), hr, Nat.add_sub_cancel_left, Nat.mod_eq_of_lt hlt]
    refine ⟨acc_withWord s c v (by omega), fun k hk => ?_⟩
    have hread : (withWord s c r v).dst.read (s.cursor.toNat + k) = some (wordByte _ k) :=
      Memory.read_writeWord _ _ _ _ hk
    rw [hread, Option.map_some, toNat_wordByte, toNat_acc_or_stored v hclean hr]

/-- Settles O14: the padded word is the one write, and it counts the bytes that carry data. -/
theorem flushWritesThePaddedWord : Obligations.FlushWritesThePaddedWord := by
  unfold Obligations.FlushWritesThePaddedWord
  intro s
  refine ⟨flush_of_empty, fun hheld hroom => ⟨_, flush_eq_padded hheld hroom, rfl, rfl, rfl,
    cursor_putWord s.acc ((s.nbits.toNat + 7) / 8) hroom, rfl, fun k hk => ?_, fun a ha => Memory.read_writeWord_other _ _ ha⟩⟩
  have hread : (padded s).dst.read (s.cursor.toNat + k) = some (wordByte s.acc k) := Memory.read_writeWord _ _ _ _ hk
  rw [hread, Option.map_some, toNat_wordByte]

end Sys2Proof.Proofs
end

section
/-! The rows of the code table and of the host registers (R99, R122, R32, R33, R36, R101), and what a step does with each of
the host's actions (R31, R182, R232, R240). -/

namespace Sys2Proof.Machine

/-! ## The code table -/

theorem exec_lookup_some {c len code : Nat} (h : codeEntry c = some (len, code)) (s : State) :
    exec (.lookup c) s = .next (s.setOut (.entry len code)) := by
  simp only [exec, execLookup, h]

theorem exec_lookup_none {c : Nat} (h : codeEntry c = none) (s : State) :
    exec (.lookup c) s = .next (s.setOut .notFound) := by
  simp only [exec, execLookup, h]

/-! ## CTRL, STATUS and RESULT -/

theorem wordOf_eq {i : Instr} {w : U64} (h : hostWord i = some w) : wordOf i = w := by
  rw [wordOf, h, Option.getD_some]

theorem wordOf_ctrlStart_bit (r : BitVec 31) : (wordOf (.ctrlStart r)).getLsbD 0 = true := by
  have hword : hostWord (.ctrlStart r) = some ((r ++ 1#1 : U32).setWidth 64) := rfl
  rw [wordOf_eq hword, BitVec.getLsbD_setWidth, BitVec.getLsbD_append]
  rfl

theorem wordOf_ctrlNop_bit (r : BitVec 31) : (wordOf (.ctrlNop r)).getLsbD 0 = false := by
  have hword : hostWord (.ctrlNop r) = some ((r ++ 0#1 : U32).setWidth 64) := rfl
  rw [wordOf_eq hword, BitVec.getLsbD_setWidth, BitVec.getLsbD_append]
  rfl

/-- A write of `CTRL` is START or nothing, as bit 0 says (R32). -/
theorem hostWriteReg_zero (v : U64) (s : State) : hostWriteReg 0 v s = if v.getLsbD 0 then startPass s else s :=
  if_pos rfl

theorem exec_ctrlStart (r : BitVec 31) (s : State) : exec (.ctrlStart r) s = .next (startPass s) := by
  rw [exec, execCtrlStart, hostWriteReg_zero, if_pos (wordOf_ctrlStart_bit r)]

theorem exec_ctrlNop (r : BitVec 31) (s : State) : exec (.ctrlNop r) s = .next s := by
  rw [exec, execCtrlNop, hostWriteReg_zero, wordOf_ctrlNop_bit]
  rfl

theorem restPhase_iff {p : Phase} : restPhase p = true ↔ p = .idle ∨ p = .done ∨ p = .error := by
  cases p <;> decide

theorem toNat_zero_append {m n : Nat} (x : BitVec n) : (0#m ++ x).toNat = x.toNat := by
  rw [BitVec.toNat_append, BitVec.toNat_ofNat, Nat.zero_mod, Nat.zero_shiftLeft, Nat.zero_or]

theorem toNat_statusWord (s : State) : (statusWord s).toNat = s.statusState.toNat + 4 * s.statusErr.toNat := by
  rw [statusWord, BitVec.toNat_append, toNat_zero_append, Nat.shiftLeft_eq, Nat.mul_comm,
    ← Nat.two_pow_add_eq_or_of_lt s.statusState.isLt, Nat.add_comm]

/-- A register that is compared with a word of 32 bits is compared as a number. -/
theorem setWidth_beq_setWidth (w v : U32) : (w.setWidth 64 == v.setWidth 64) = decide (w.toNat = v.toNat) := by
  rw [beq_eq_decide]
  refine decide_eq_decide.mpr ⟨fun h => ?_, fun h => by rw [BitVec.eq_of_toNat_eq h]⟩
  have hnat := congrArg BitVec.toNat h
  rwa [BitVec.toNat_setWidth_of_le (by decide), BitVec.toNat_setWidth_of_le (by decide)] at hnat

/-- A STATUS row is a read of `STATUS` compared with the row's word (R101). -/
theorem hostPoll_status {i : Instr} {w : U32} (h : hostWord i = some (w.setWidth 64)) (s : State) :
    hostPoll 1 (wordOf i) s =
      { s with out := .regPoll 1 ((statusWord s).setWidth 64) (decide ((statusWord s).toNat = w.toNat)) } := by
  rw [hostPoll, wordOf_eq h, regValue, setWidth_beq_setWidth]
  rfl

theorem beq_eq_decide_toInt (w v : U64) : (w == v) = decide (w.toInt = v.toInt) := by
  rw [beq_eq_decide]
  exact decide_eq_decide.mpr BitVec.toInt_inj.symm

/-- A RESULT row is a read of `RESULT` compared with the row's word as a signed number (R101). -/
theorem hostPoll_result {i : Instr} {w : U64} (h : hostWord i = some w) (s : State) :
    hostPoll 7 (wordOf i) s = { s with out := .regPoll 7 s.result (decide (s.result.toInt = w.toInt)) } := by
  rw [hostPoll, wordOf_eq h, regValue, beq_eq_decide_toInt]
  rfl

theorem toInt_zero_append (n : BitVec 63) : (0#1 ++ n : U64).toInt = (n.toNat : Int) := by
  have hn := n.isLt
  have hnat : (0#1 ++ n : U64).toNat = n.toNat := toNat_zero_append n
  rw [BitVec.toInt_eq_toNat_cond, hnat, if_pos (by omega)]

end Sys2Proof.Machine

namespace Sys2Proof.Proofs
open Sys2Proof Sys2Proof.Machine Sys2Proof.Claims

/-- Settles O16: each address holds a word with its length and code, and address 15 a word of length 0. -/
theorem romRowsReadTheTable : Obligations.RomRowsReadTheTable := by
  unfold Obligations.RomRowsReadTheTable
  intro s
  refine ⟨?_, ?_, ?_, ?_, ?_, ?_, ?_, ?_, ?_, ?_, ?_, ?_, ?_, ?_, ?_, rfl⟩
  all_goals rfl

/-- Settles O17: the table has an entry up to class 14 and none above. -/
theorem lookupIsTheLiteralTable : Obligations.LookupIsTheLiteralTable := by
  unfold Obligations.LookupIsTheLiteralTable
  intro s
  refine ⟨?_, ?_, ?_, ?_, ?_, ?_, ?_, ?_, ?_, ?_, ?_, ?_, ?_, ?_, ?_, fun c hc => exec_lookup_none (codeEntry_none hc) s⟩
  all_goals exact exec_lookup_some rfl s

/-- Settles O18: a CTRL word with bit 0 set is START, and START tests whether the phase is one of rest. -/
theorem startBeginsAPassOnlyAtRest : Obligations.StartBeginsAPassOnlyAtRest := by
  unfold Obligations.StartBeginsAPassOnlyAtRest
  intro s reserved
  refine ⟨exec_ctrlStart reserved s, congrArg Host.Outcome.next ?_⟩
  split
  · rename_i hrest
    exact startPass_rest (restPhase_iff.mpr hrest)
  · rename_i hbusy
    exact startPass_busy (Bool.eq_false_iff.mpr (mt restPhase_iff.mp hbusy))

/-- Settles O19: bit 0 of the word is clear. -/
theorem ctrlWithoutStartDoesNothing : Obligations.CtrlWithoutStartDoesNothing := by
  unfold Obligations.CtrlWithoutStartDoesNothing
  intro s reserved
  exact exec_ctrlNop reserved s

/-- Settles O20: each row is a read of `STATUS` compared with the row's word. -/
theorem statusRowsReadStatus : Obligations.StatusRowsReadStatus := by
  unfold Obligations.StatusRowsReadStatus
  intro s
  exact ⟨toNat_statusWord s, congrArg _ (hostPoll_status (w := 0x0#32) rfl s),
    congrArg _ (hostPoll_status (w := 0x1#32) rfl s), congrArg _ (hostPoll_status (w := 0x2#32) rfl s),
    congrArg _ (hostPoll_status (w := 0x7#32) rfl s), congrArg _ (hostPoll_status (w := 0xB#32) rfl s),
    congrArg _ (hostPoll_status (w := 0xF#32) rfl s)⟩

/-- Settles O21: each row is a read of `RESULT` compared with the row's word, and words are equal when their signed values
are. -/
theorem resultRowsReadResult : Obligations.ResultRowsReadResult := by
  unfold Obligations.ResultRowsReadResult
  intro s
  refine ⟨congrArg _ (hostPoll_result (w := 0xFFFFFFFFFFFFFFFF#64) rfl s),
    congrArg _ (hostPoll_result (w := 0xFFFFFFFFFFFFFFFE#64) rfl s),
    congrArg _ (hostPoll_result (w := 0xFFFFFFFFFFFFFFFD#64) rfl s), fun n => ?_⟩
  rw [← toInt_zero_append n]
  exact congrArg _ (hostPoll_result rfl s)

end Sys2Proof.Proofs
end

section
/-! What a step does, said once: the core's own step of its phase (R171), or one action with that action taken off the list.
Later proofs go through `step_of_nil` and `step_of_cons` and do not unfold the fetch. -/

namespace Sys2Proof.Machine
open Sys2Proof.Claims

/-- The core's own step: the sequencer's step of the phase, and nothing at rest (R171, R211). -/
def coreStep (s : State) : Res :=
  match s.phase with
  | .idle => .next s
  | .checkSrc => execCheckSrc s
  | .init => execInit s
  | .rowCheck => execRowCheck s
  | .pixel => execPixel s
  | .finalFlush => execFinalFlush s
  | .done => .next s
  | .error => .next s

/-- What one action does to a state it has been taken off (R31, R182, R230, R232). -/
def act (a : Action) (s : State) : Res :=
  match a with
  | .core => coreStep s
  | .hostWrite reg v => .next (hostWriteReg reg v s)
  | .hostRead reg => .next (hostReadReg reg s)
  | .hostStore space off b => .next (hostStoreByte space off b s)
  | .hostLoad space off => .next (hostLoadByte space off s)
  | .resetPin => .next (hardwareReset s)
  | .frame f =>
    match decode f with
    | .ok i => exec i s
    | .error e => .refused (.undecodable e)

/-- The outcome of what has been fetched. -/
def Fetched.outcome : Fetched → Res
  | .run i s => exec i s
  | .done r => r

theorem step_eq_outcome (s : State) : step s = (fetch s).outcome := by
  unfold step Fetched.outcome
  cases fetch s <;> rfl

theorem coreTurn_outcome (s : State) : (coreTurn s).outcome = coreStep s := by
  unfold coreTurn coreStep
  cases s.phase <;> rfl

/-- A written `CTRL` word runs as the host write of `CTRL` it is (R32). -/
theorem exec_decodeCtrl (v : U64) (s : State) : exec (decodeCtrl (v.setWidth 32)) s = .next (hostWriteReg 0 v s) := by
  have hbit : (v.setWidth 32).getLsbD 0 = v.getLsbD 0 := by simp
  rw [decodeCtrl, hostWriteReg_zero, hbit]
  split
  · exact exec_ctrlStart _ s
  · exact exec_ctrlNop _ s

theorem takeAction_outcome (a : Action) (s : State) : (takeAction a s).outcome = act a s := by
  match a with
  | .core => exact coreTurn_outcome s
  | .hostWrite 0 v => exact exec_decodeCtrl v s
  | .hostWrite (_ + 1) _ | .hostRead _ | .hostStore _ _ _ | .hostLoad _ _ | .resetPin => rfl
  | .frame f =>
    simp only [takeAction, act]
    cases decode f <;> rfl

theorem step_of_nil {s : State} (h : s.pending = []) : step s = coreStep s := by
  rw [step_eq_outcome, fetch_nil h, coreTurn_outcome]

theorem step_of_cons {s : State} {a : Action} {rest : List Action} (h : s.pending = a :: rest) :
    step s = act a { s with pending := rest } := by
  rw [step_eq_outcome, fetch_cons h, takeAction_outcome]

theorem isBusy_iff {s : State} : isBusy s = true ↔ s.statusState = 1#2 := beq_iff_eq

theorem isBusy_eq_false_iff {s : State} : isBusy s = false ↔ s.statusState ≠ 1#2 := beq_eq_false_iff_ne

/-- A write of another register than `CTRL` is dropped while BUSY (R37). -/
theorem hostWriteReg_busy {reg : Nat} {s : State} (hreg : reg ≠ 0) (v : U64) (h : s.statusState = 1#2) :
    hostWriteReg reg v s = s := by
  rw [hostWriteReg, if_neg hreg, if_pos (isBusy_iff.mpr h)]

theorem hostWriteReg_rest {reg : Nat} {s : State} (hreg : reg ≠ 0) (v : U64) (h : s.statusState ≠ 1#2) :
    hostWriteReg reg v s = setParam s v reg := by
  rw [hostWriteReg, if_neg hreg, if_neg (mt isBusy_iff.mp h)]

theorem hostStoreSrc_busy {s : State} (off : Nat) (b : Byte) (h : s.statusState = 1#2) :
    hostStoreSrc off b s =
      { s with src := s.src.write off b, srcPast := (off, srcByte s off) :: s.srcPast, freeCtr := s.freeCtr + 1 } :=
  if_pos (isBusy_iff.mpr h)

theorem hostStoreSrc_rest {s : State} (off : Nat) (b : Byte) (h : s.statusState ≠ 1#2) :
    hostStoreSrc off b s = { s with src := s.src.write off b } := if_neg (mt isBusy_iff.mp h)

theorem srcByte_of_read {s : State} {off : Nat} {b : Byte} (h : s.src.read off = some b) : srcByte s off = b := by
  rw [srcByte, h, Option.getD_some]

theorem dstByte_of_read {s : State} {off : Nat} {b : Byte} (h : s.dst.read off = some b) : dstByte s off = b := by
  rw [dstByte, h, Option.getD_some]

theorem toNat_append_byte (b1 b0 : Byte) : (b1 ++ b0 : U16).toNat = b0.toNat + 256 * b1.toNat := by
  rw [BitVec.toNat_append, Nat.shiftLeft_eq, Nat.mul_comm, ← Nat.two_pow_add_eq_or_of_lt b0.isLt, Nat.add_comm]

/-- The value of a sample's two bytes (R64). -/
theorem toNat_sampleOfBytes (order : ByteOrder) (b0 b1 : Byte) :
    (sampleOfBytes order b0 b1).toNat = sampleValue order b0 b1 := by
  cases order with
  | little => exact toNat_append_byte b1 b0
  | big => rw [sampleOfBytes, toNat_append_byte, sampleValue, Nat.add_comm]

end Sys2Proof.Machine

namespace Sys2Proof.Proofs
open Sys2Proof Sys2Proof.Machine Sys2Proof.Claims

/-- Settles O6: the fetch hands the instruction it decodes to `exec`. -/
theorem stepRunsTheDecodedInstruction : Obligations.StepRunsTheDecodedInstruction := by
  unfold Obligations.StepRunsTheDecodedInstruction
  intro s rest
  refine ⟨fun f i hpending hdecode => ?_, fun v hpending => ?_, fun hpending => ?_⟩
  · rw [step_of_cons hpending, act, hdecode]
  · rw [step_of_cons hpending, exec_decodeCtrl, act]
  · rw [step_of_cons hpending]
    rfl

/-- Settles O7: the core's turn is the step of the phase, whether it is listed or nothing is. -/
theorem stepTakesTheSequencersStep : Obligations.StepTakesTheSequencersStep := by
  unfold Obligations.StepTakesTheSequencersStep
  intro s t hturn
  have hcore : step s = coreStep t ∧ t.phase = s.phase := by
    rcases hturn with ⟨hpending, rfl⟩ | ⟨rest, hpending, rfl⟩
    · exact ⟨step_of_nil hpending, rfl⟩
    · exact ⟨step_of_cons hpending, rfl⟩
  obtain ⟨hstep, hphase⟩ := hcore
  rw [hstep, coreStep, hphase]
  cases s.phase <;> rfl

/-- Settles O22: a read returns the register's value in `out`, and the registers are listed by number. -/
theorem hostReadsHaveNoSideEffect : Obligations.HostReadsHaveNoSideEffect := by
  unfold Obligations.HostReadsHaveNoSideEffect
  intro s reg rest hpending
  have hwide {w : Nat} (x : BitVec w) (hw : w ≤ 64) : (x.setWidth 64).toNat = x.toNat := BitVec.toNat_setWidth_of_le hw
  refine ⟨regValue s reg, step_of_cons hpending, ?_, ?_, ?_, ?_, ?_, ?_, ?_, ?_, ?_⟩
  · rintro rfl; rfl
  · rintro rfl; exact (hwide _ (by decide)).trans (toNat_statusWord s)
  · rintro rfl; exact hwide _ (by decide)
  · rintro rfl; exact hwide _ (by decide)
  · rintro rfl; exact hwide _ (by decide)
  · rintro rfl; exact hwide _ (by decide)
  · rintro rfl; exact hwide _ (by decide)
  · rintro rfl; rfl
  · intro hreg
    obtain ⟨k, rfl⟩ := Nat.exists_eq_add_of_le' hreg
    rfl

/-- Settles O23: a write that is not dropped reaches the parameter register of its number, and the other numbers have none. -/
theorem hostWritesReachOnlyParameters : Obligations.HostWritesReachOnlyParameters := by
  unfold Obligations.HostWritesReachOnlyParameters
  intro s reg v rest hpending hreg
  rw [step_of_cons hpending, act]
  by_cases hbusy : s.statusState = 1#2
  · rw [if_pos hbusy]
    exact congrArg _ (hostWriteReg_busy hreg v hbusy)
  · rw [if_neg hbusy]
    refine congrArg _ ((hostWriteReg_rest (s := { s with pending := rest }) hreg v hbusy).trans ?_)
    match reg with
    | 0 => exact absurd rfl hreg
    | 1 | 2 | 3 | 4 | 5 | 6 => rfl
    | n + 7 => rfl

/-- Settles O24, space by space: a store is one write of the buffer, and during a pass the model's record of it. -/
theorem hostStoresPlaceOneByte : Obligations.HostStoresPlaceOneByte := by
  unfold Obligations.HostStoresPlaceOneByte
  intro s space off b rest hpending
  have hother (m : Memory) (v : Byte) (a : Nat) (ha : a ≠ off) : (m.write off v).read a = m.read a :=
    Memory.read_write_other m v ha
  rw [step_of_cons hpending]
  by_cases hbusy : s.statusState = 1#2 <;> cases space
  case pos.src =>
    exact ⟨_, congrArg Host.Outcome.next (hostStoreSrc_busy (s := { s with pending := rest }) off b hbusy),
      Memory.read_write_same _ _ _, hother _ _, fun hrest => absurd hbusy hrest, fun _ => rfl⟩
  case neg.src =>
    exact ⟨_, congrArg Host.Outcome.next (hostStoreSrc_rest (s := { s with pending := rest }) off b hbusy),
      Memory.read_write_same _ _ _, hother _ _, fun _ => rfl, fun h => absurd h hbusy⟩
  case pos.dst =>
    obtain ⟨v, hv, hstore⟩ := hostStoreDst_busy (s := { s with pending := rest }) off b (isBusy_iff.mpr hbusy)
    refine ⟨_, congrArg Host.Outcome.next hstore, hother _ _, fun hrest => absurd hbusy hrest,
      fun _ => ⟨?_, Memory.read_write_same _ _ _, hother _ _, rfl⟩⟩
    have hread := Memory.read_write_same s.dst off v
    rcases hv with rfl | ⟨hunder, rfl⟩
    · exact .inl hread
    · exact .inr ⟨hunder, hread⟩
  case neg.dst =>
    have hstore := hostStoreDst_rest (s := { s with pending := rest }) off b (isBusy_eq_false_iff.mpr hbusy)
    exact ⟨_, congrArg Host.Outcome.next hstore, hother _ _,
      fun _ => ⟨Memory.read_write_same _ _ _, rfl⟩, fun h => absurd h hbusy⟩

/-- Settles O56, space by space: a load returns the byte of the buffer or, under a word of the pass, the byte without it. -/
theorem hostLoadsReturnTheByte : Obligations.HostLoadsReturnTheByte := by
  unfold Obligations.HostLoadsReturnTheByte
  intro s space off rest hpending
  rw [step_of_cons hpending]
  by_cases hbusy : s.statusState = 1#2 <;> cases space
  case pos.src | neg.src => exact ⟨_, rfl, fun b hb => srcByte_of_read hb⟩
  case pos.dst =>
    obtain ⟨v, hv, hload⟩ := hostLoadDst_busy (s := { s with pending := rest }) off (isBusy_iff.mpr hbusy)
    refine ⟨v, fun hrest => absurd hbusy hrest, fun _ => ⟨congrArg Host.Outcome.next hload, hv, fun b hb hbeyond => ?_⟩⟩
    have hbyte : v = dstByte s off := hv.resolve_right fun hunder => not_lt.mpr hbeyond hunder.1
    exact hbyte.trans (dstByte_of_read hb)
  case neg.dst =>
    have hload := hostLoadDst_rest (s := { s with pending := rest }) off (isBusy_eq_false_iff.mpr hbusy)
    exact ⟨_, fun _ => ⟨congrArg Host.Outcome.next hload, fun b hb => dstByte_of_read hb⟩,
      fun h => absurd h hbusy⟩

/-- Settles O32: bytes the host has not stored during the pass are read as the buffer holds them. -/
theorem sampleBytesFollowTheParameter : Obligations.SampleBytesFollowTheParameter := by
  unfold Obligations.SampleBytesFollowTheParameter
  intro s i b0 b1 hb0 hb1 hunstored
  rw [sampleAt, coreByte_of_unstored fun e he => (hunstored e he).1, coreByte_of_unstored fun e he => (hunstored e he).2,
    srcByte_of_read hb0, srcByte_of_read hb1, toNat_sampleOfBytes]

/-- Settles O57: each byte the core reads is one the buffer holds or has held since START. -/
theorem disturbedPassReadsOldOrNewBytes : Obligations.DisturbedPassReadsOldOrNewBytes := by
  unfold Obligations.DisturbedPassReadsOldOrNewBytes
  intro s i
  exact ⟨_, _, toNat_sampleOfBytes _ _ _, coreByte_cases s (2 * i), coreByte_cases s (2 * i + 1)⟩

end Sys2Proof.Proofs
end

section
/-! The predictor moves the sample itself in (R155, R157), and the deltas with a code are those within 8191 (R153, R156). -/

namespace Sys2Proof.Machine
open Sys2Proof.Claims

/-- `observe` leaves the sample in the registers of its position (R157). -/
theorem observeUpdate_eq (s : State) (row col : Nat) (pixel : U16) :
    observeUpdate s row col pixel = sampleMovedIn s row col pixel := by
  have hrow : row % 2 ≠ 0 ↔ row % 2 = 1 := Nat.mod_two_ne_zero
  have hcol : col % 2 ≠ 0 ↔ col % 2 = 1 := Nat.mod_two_ne_zero
  have hnew : wrapAdd (predictAt s row col) (deltaAt s row col pixel) = pixel := wrapAdd_delta _ _
  unfold observeUpdate
  split
  · rename_i hseed
    have hk : col ≠ 0 ↔ col = 1 := by omega
    rw [predictAt, if_pos hseed] at hnew
    simp only [hnew, State.setSeed, State.setRunning, sampleMovedIn, hrow, hcol, hk]
  · rename_i hrun
    have h0 : col ≠ 0 := by omega
    have h1 : col ≠ 1 := by omega
    rw [predictAt, if_neg hrun] at hnew
    simp only [hnew, State.setRunning, sampleMovedIn, hcol, h0, h1, and_false, if_false]

theorem classOf_le_fourteen_iff {d : Int} : classOf d ≤ 14 ↔ d.natAbs ≤ 8191 := by
  by_cases hd : d = 0
  · simp [hd]
  · have hwidth : bitlen d.natAbs ≤ 13 ↔ d.natAbs < 8192 := bitlen_le_iff
    rw [classOf_of_ne_zero hd]
    omega

theorem classify_of_le {d : Int} (h : d.natAbs ≤ 8191) : classify d = some (classOf d, dataValue d) :=
  if_neg (not_lt.mpr (classOf_le_fourteen_iff.mpr h))

theorem classify_of_gt {d : Int} (h : 8192 ≤ d.natAbs) : classify d = none :=
  if_pos (not_le.mp (mt classOf_le_fourteen_iff.mp (by omega)))

theorem exec_observe_of_le {s : State} {row col : Nat} {pixel : U16} (h : (deltaAt s row col pixel).natAbs ≤ 8191) :
    exec (.observe row col pixel) s = .next ((sampleMovedIn s row col pixel).setOut
      (.observed (classOf (deltaAt s row col pixel)) (dataValue (deltaAt s row col pixel)))) := by
  rw [exec, execObserve, classify_of_le h, observeUpdate_eq]

theorem exec_observe_of_gt {s : State} {row col : Nat} {pixel : U16} (h : 8192 ≤ (deltaAt s row col pixel).natAbs) :
    exec (.observe row col pixel) s = .next ((sampleMovedIn s row col pixel).setOut .classOutOfRange) := by
  rw [exec, execObserve, classify_of_gt h, observeUpdate_eq]

end Sys2Proof.Machine

namespace Sys2Proof.Proofs
open Sys2Proof Sys2Proof.Machine Sys2Proof.Claims

/-- Settles O26: both outcomes of `observe` move the sample in, and return a value. -/
theorem observeMovesTheSampleIn : Obligations.ObserveMovesTheSampleIn := by
  unfold Obligations.ObserveMovesTheSampleIn
  intro s row col pixel
  rcases le_or_gt (deltaAt s row col pixel).natAbs 8191 with h | h
  · exact ⟨_, exec_observe_of_le h, rfl⟩
  · exact ⟨_, exec_observe_of_gt h, rfl⟩

/-- Settles O27: up to 8191 the class is the interval of the magnitude, and above there is no class with a code. -/
theorem observeReturnsClassAndData : Obligations.ObserveReturnsClassAndData := by
  unfold Obligations.ObserveReturnsClassAndData
  rintro s row col pixel d hd
  obtain rfl : d = deltaAt s row col pixel := hd
  rcases le_or_gt (deltaAt s row col pixel).natAbs 8191 with h | h
  · refine ⟨_, exec_observe_of_le h, fun hzero => ?_, fun hne _ => ?_, fun hlarge => absurd hlarge (by omega)⟩
    · rw [hzero]
      rfl
    · obtain ⟨k, hclass, hlo, hhi⟩ := exists_classOf_eq_add_two hne
      have hle := classOf_le_fourteen_iff.mpr h
      rw [hclass] at hle
      refine ⟨k + 2, by omega, hle, hlo, hhi, ?_⟩
      rw [State.setOut_out, hclass, dataValue, hclass]
  · refine ⟨_, exec_observe_of_gt h, fun hzero => ?_, fun _ hle => absurd hle (by omega), fun _ => rfl⟩
    rw [hzero] at h
    exact absurd h (by decide)

end Sys2Proof.Proofs
end

section
/-! The sequencer's steps as equations, one per branch of the pseudocode (R172, R175, R178, R179). -/

namespace Sys2Proof.Machine
open Sys2Proof.Claims

/-! ## CHECK_SRC and ROW_CHECK -/

theorem execCheckSrc_of_le {s : State} (h : sourceNeed s ≤ s.srcSize.toNat) : execCheckSrc s = .next { s with phase := .init } :=
  if_neg (not_lt.mpr h)

theorem execCheckSrc_of_gt {s : State} (h : s.srcSize.toNat < sourceNeed s) :
    execCheckSrc s = raiseError .sourceBufferTooSmall s := if_pos h

theorem marginFails_iff {s : State} : marginFails s = true ↔ s.dstSize.toNat < s.count.toNat + 1048576 := decide_eq_true_iff

theorem execRowCheck_of_end {s : State} (h : s.row = s.rows) : execRowCheck s = .next { s with phase := .finalFlush } := if_pos h

theorem execRowCheck_of_margin {s : State} (h : s.row ≠ s.rows) (hm : s.dstSize.toNat < s.count.toNat + 1048576) :
    execRowCheck s = raiseError .outputBufferTooSmall s := by
  rw [execRowCheck, if_neg h, if_pos (marginFails_iff.mpr hm)]

theorem execRowCheck_of_no_column {s : State} (h : s.row ≠ s.rows) (hm : s.count.toNat + 1048576 ≤ s.dstSize.toNat)
    (hc : s.cols = 0#32) : execRowCheck s = .next { s with row := s.row + 1#32, phase := .rowCheck } := by
  rw [execRowCheck, if_neg h, if_neg (mt marginFails_iff.mp (not_lt.mpr hm)), if_pos hc]

theorem execRowCheck_of_column {s : State} (h : s.row ≠ s.rows) (hm : s.count.toNat + 1048576 ≤ s.dstSize.toNat)
    (hc : s.cols ≠ 0#32) : execRowCheck s = .next { s with col := 0#32, phase := .pixel } := by
  rw [execRowCheck, if_neg h, if_neg (mt marginFails_iff.mp (not_lt.mpr hm)), if_neg hc]

/-! ## PIXEL -/

/-- The state of a pixel with its sample in the predictor (R156). -/
def pixelMovedIn (s : State) : State :=
  sampleMovedIn s s.row.toNat s.col.toNat (sampleAt s (s.row.toNat * s.cols.toNat + s.col.toNat))

/-- The symbol of the pixel the sequencer is at (R178). -/
def pixelBits (s : State) : List Bool :=
  symBits (classOf (pixelDelta s)) (dataValue (pixelDelta s))

theorem execPixel_of_le {s : State} (h : (pixelDelta s).natAbs ≤ 8191) :
    execPixel s = andThen (emitSymbol (classOf (pixelDelta s)) (dataValue (pixelDelta s)) (pixelMovedIn s)) fun u =>
      .next (nextPosition u) := by
  have hclass : classify (deltaAt s s.row.toNat s.col.toNat (sampleAt s (pixelIndex s))) =
      some (classOf (pixelDelta s), dataValue (pixelDelta s)) := classify_of_le h
  simp only [execPixel, hclass, observeUpdate_eq]
  rfl

theorem execPixel_of_gt {s : State} (h : 8192 ≤ (pixelDelta s).natAbs) :
    execPixel s = raiseError .noHuffmanEntry (pixelMovedIn s) := by
  have hclass : classify (deltaAt s s.row.toNat s.col.toNat (sampleAt s (pixelIndex s))) = none := classify_of_gt h
  simp only [execPixel, hclass, observeUpdate_eq]
  rfl

/-- Where only the writer has moved, the rest of the state is the old one's. -/
theorem onlyWriter_iff {s t : State} :
    OnlyWriter s t ↔ ∃ a n p k m, t = { s with acc := a, nbits := n, cursor := p, count := k, dst := m } :=
  ⟨fun h => ⟨_, _, _, _, _, h⟩, by rintro ⟨a, n, p, k, m, rfl⟩; rfl⟩

theorem col_of_onlyWriter {s t : State} (h : OnlyWriter s t) : t.col = s.col := by
  obtain ⟨a, n, p, k, m, rfl⟩ := onlyWriter_iff.mp h
  rfl

theorem cols_of_onlyWriter {s t : State} (h : OnlyWriter s t) : t.cols = s.cols := by
  obtain ⟨a, n, p, k, m, rfl⟩ := onlyWriter_iff.mp h
  rfl

/-- A pixel with a code whose symbol fits: the symbol is appended and the position goes on. -/
theorem execPixel_appended {s : State} (h : (pixelDelta s).natAbs ≤ 8191) (hfits : Fits s (pixelBits s).length) :
    ∃ u, execPixel s = .next (nextPosition u) ∧ Appended (pixelMovedIn s) u (pixelBits s) := by
  obtain ⟨u, hemit, happ⟩ :=
    emitSymbol_appended (s := pixelMovedIn s) (dataValue (pixelDelta s)) (classOf_le_fourteen_iff.mpr h) hfits
  exact ⟨u, by rw [execPixel_of_le h, hemit, andThen_next], happ⟩

theorem execPixel_of_no_room {s : State} (h : (pixelDelta s).natAbs ≤ 8191)
    (hfill : 32 ≤ s.nbits.toNat + (pixelBits s).length) (hroom : ¬ HasRoom s) : execPixel s = .fault .dstOverrun := by
  rw [execPixel_of_le h,
    emitSymbol_of_no_room (s := pixelMovedIn s) _ (classOf_le_fourteen_iff.mpr h) hfill hroom, andThen_fault]

theorem nextPosition_of_lt {s : State} (h : s.col.toNat + 1 < s.cols.toNat) :
    nextPosition s = { s with col := s.col + 1#32, phase := .pixel } := if_pos h

theorem nextPosition_of_ge {s : State} (h : ¬ s.col.toNat + 1 < s.cols.toNat) :
    nextPosition s = { s with row := s.row + 1#32, phase := .rowCheck } := if_neg h

/-- The position has no part in the writer. -/
theorem nextPosition_frame (s : State) :
    nextPosition s = { s with row := (nextPosition s).row, col := (nextPosition s).col, phase := (nextPosition s).phase } := by
  unfold nextPosition
  split <;> rfl

theorem toNat_add_one_of_lt {x y : U32} (h : x.toNat < y.toNat) : (x + 1#32).toNat = x.toNat + 1 := by
  have hy := y.isLt
  rw [BitVec.toNat_add, BitVec.toNat_ofNat, Nat.mod_eq_of_lt (by omega)]

/-! ## FINAL_FLUSH -/

theorem execFinalFlush_of_empty {s : State} (h : s.nbits = 0#5) : execFinalFlush s = .next (complete s) := by
  rw [execFinalFlush, flush_of_empty h, andThen_next]

theorem execFinalFlush_of_held {s : State} (h : s.nbits ≠ 0#5) (hroom : HasRoom s) :
    execFinalFlush s = .next (complete (padded s)) := by
  rw [execFinalFlush, flush_eq_padded h hroom, andThen_next]

theorem execFinalFlush_of_no_room {s : State} (h : s.nbits ≠ 0#5) (hroom : ¬ HasRoom s) :
    execFinalFlush s = .fault .dstOverrun := by
  rw [execFinalFlush, flush_of_no_room h hroom, andThen_fault]

theorem acc_eq_zero_of_empty {s : State} (hclean : AccClean s) (h : s.nbits = 0#5) : s.acc = 0#32 := by
  have hacc : s.acc.toNat % 2 ^ 32 = 0 := by rw [AccClean, h] at hclean; exact hclean
  exact BitVec.eq_of_toNat_eq ((Nat.mod_eq_of_lt s.acc.isLt).symm.trans hacc)

theorem heldBits_of_empty {s : State} (h : s.nbits = 0#5) : heldBits s = [] := by
  rw [heldBits, h]
  rfl

/-- The padded word is the held bits followed by zeros (R134). -/
theorem dstBits_padded {s : State} (hclean : AccClean s) :
    dstBits (padded s) (s.cursor.toNat + 4) = streamBits s ++ List.replicate (32 - s.nbits.toNat) false := by
  have hword : natBits 32 s.acc.toNat = heldBits s ++ List.replicate (32 - s.nbits.toNat) false := by
    simpa [natBits_zero] using natBits_acc_add hclean (Nat.two_pow_pos (32 - s.nbits.toNat))
  rw [dstBits_of_writeWord (s := s) (w := s.acc) rfl, hword, streamBits, List.append_assoc]

end Sys2Proof.Machine

namespace Sys2Proof.Proofs
open Sys2Proof Sys2Proof.Machine Sys2Proof.Claims

/-- Settles O33: the two sides of the comparison. -/
theorem checkSrcComparesExactly : Obligations.CheckSrcComparesExactly := by
  unfold Obligations.CheckSrcComparesExactly
  exact fun s => ⟨execCheckSrc_of_le, execCheckSrc_of_gt⟩

/-- Settles O35: the four branches of the step. -/
theorem rowCheckAppliesTheMargin : Obligations.RowCheckAppliesTheMargin := by
  unfold Obligations.RowCheckAppliesTheMargin
  exact fun s => ⟨execRowCheck_of_end, execRowCheck_of_margin, execRowCheck_of_no_column, execRowCheck_of_column⟩

/-- Settles O39: the three codes. -/
theorem raiseTakesTheAbort : Obligations.RaiseTakesTheAbort := by
  unfold Obligations.RaiseTakesTheAbort
  intro e s
  refine ⟨_, raiseError_eq e s, rfl, ?_, ?_, ?_⟩
  all_goals
    rintro rfl
    exact ⟨rfl, rfl⟩

/-- Settles O37: the sample is moved in before the abort, and nothing is appended. -/
theorem pixelOutOfRangeAborts : Obligations.PixelOutOfRangeAborts := by
  unfold Obligations.PixelOutOfRangeAborts
  exact fun s h => execPixel_of_gt h

/-- Settles O36: the sample is moved in, the symbol appended, and then only the position changes. -/
theorem pixelAppendsItsSymbol : Obligations.PixelAppendsItsSymbol := by
  unfold Obligations.PixelAppendsItsSymbol
  intro s h hclean hfits
  obtain ⟨u, hexec, happ⟩ := execPixel_appended h hfits
  have hcol : u.col = s.col := (col_of_onlyWriter happ.onlyWriter).trans rfl
  have hcols : u.cols = s.cols := (cols_of_onlyWriter happ.onlyWriter).trans rfl
  have hstream := happ.stream hclean
  have hclean' := happ.clean hclean
  have hmoved := happ.moved
  refine ⟨_, hexec, ?_⟩
  by_cases hlast : s.col.toNat + 1 < s.cols.toNat
  · rw [if_pos hlast, nextPosition_of_lt (by rwa [hcol, hcols])]
    obtain ⟨a, n, p, k, m, rfl⟩ := onlyWriter_iff.mp happ.onlyWriter
    exact ⟨hstream, hclean', hmoved, ⟨toNat_add_one_of_lt (Nat.lt_of_succ_lt hlast), rfl, rfl⟩, rfl⟩
  · rw [if_neg hlast, nextPosition_of_ge (by rwa [hcol, hcols])]
    obtain ⟨a, n, p, k, m, rfl⟩ := onlyWriter_iff.mp happ.onlyWriter
    exact ⟨hstream, hclean', hmoved, ⟨rfl, rfl, rfl⟩, rfl⟩

/-- Settles O38: with nothing held the stream is all in `DST`; else the padded word completes it. -/
theorem finalFlushReportsTheCount : Obligations.FinalFlushReportsTheCount := by
  unfold Obligations.FinalFlushReportsTheCount
  intro s hclean hroom
  by_cases hempty : s.nbits = 0#5
  · refine ⟨_, execFinalFlush_of_empty hempty, rfl, rfl, rfl, ?_, ?_, hempty, acc_eq_zero_of_empty hclean hempty, ?_,
      fun _ _ => rfl, rfl⟩
    · rw [hempty]
      exact (BitVec.add_zero s.count).symm
    · rw [if_pos hempty]
      rfl
    · rw [streamBits, heldBits_of_empty hempty, hempty]
      exact ((List.append_nil _).trans (List.append_nil _)).symm
  · have hroom' : HasRoom s := hroom.resolve_left hempty
    have hcursor : (complete (padded s)).cursor.toNat = s.cursor.toNat + 4 :=
      cursor_putWord s.acc ((s.nbits.toNat + 7) / 8) hroom'
    have hpos : 0 < s.nbits.toNat := Nat.pos_of_ne_zero fun h0 => hempty (BitVec.eq_of_toNat_eq h0)
    refine ⟨_, execFinalFlush_of_held hempty hroom', rfl, rfl, rfl, rfl, ?_, rfl, rfl, ?_, fun a ha => ?_, rfl⟩
    · rw [if_neg hempty, hcursor]
    · rw [hcursor, Nat.mod_eq_of_lt (show 32 - s.nbits.toNat < 32 by omega)]
      exact dstBits_padded hclean
    · rw [hcursor] at ha
      exact Memory.read_writeWord_other _ _ ha

/-- Settles O15: each of the operations comes to a word write, which faults. -/
theorem wordWritePastDstSizeFaults : Obligations.WordWritePastDstSizeFaults := by
  unfold Obligations.WordWritePastDstSizeFaults
  intro s hroom
  refine ⟨fun c v hc hfill => appendBits_of_no_room v hc hfill hroom, fun i bits hpattern hfill => ?_,
    fun hdelta hfill => execPixel_of_no_room hdelta hfill hroom,
    fun hheld => ⟨flush_of_no_room hheld hroom, execFinalFlush_of_no_room hheld hroom⟩⟩
  obtain ⟨c, d, hc, rfl, hexec⟩ := exec_of_symbolPattern hpattern
  rw [hexec, emitSymbol_of_no_room d hc hfill hroom]

end Sys2Proof.Proofs
end

section
/-! Everything a step of the two agents can do, said once (R11, R171): the effects of the core's own step, one per branch of
its pseudocode, and the effects of the host's actions. Every invariant is a case analysis of these. -/

namespace Sys2Proof.Machine
open Sys2Proof.Claims

/-- The state after an abort (R205). -/
def aborted (e : ErrKind) (s : State) : State :=
  { s with statusState := 3#2, statusErr := errField e, result := sentinel e, phase := .error }

theorem raiseError_eq_aborted (e : ErrKind) (s : State) : raiseError e s = .next (aborted e s) := rfl

/-- What the core's own step can lead to. -/
inductive CoreEffect (s : State) : State → Prop
  | rest (hrest : restPhase s.phase = true) : CoreEffect s s
  | sourceTooSmall (hphase : s.phase = .checkSrc) (h : s.srcSize.toNat < sourceNeed s) :
    CoreEffect s (aborted .sourceBufferTooSmall s)
  | sourceChecked (hphase : s.phase = .checkSrc) (h : sourceNeed s ≤ s.srcSize.toNat) :
    CoreEffect s { s with phase := .init }
  | initialised (hphase : s.phase = .init) : CoreEffect s { initRegs s with phase := .rowCheck }
  | rowsDone (hphase : s.phase = .rowCheck) (h : s.row = s.rows) : CoreEffect s { s with phase := .finalFlush }
  | marginTooSmall (hphase : s.phase = .rowCheck) (h : s.row ≠ s.rows)
    (hmargin : s.dstSize.toNat < s.count.toNat + 1048576) : CoreEffect s (aborted .outputBufferTooSmall s)
  | emptyRow (hphase : s.phase = .rowCheck) (h : s.row ≠ s.rows) (hmargin : s.count.toNat + 1048576 ≤ s.dstSize.toNat)
    (hcols : s.cols = 0#32) : CoreEffect s { s with row := s.row + 1#32, phase := .rowCheck }
  | rowEntered (hphase : s.phase = .rowCheck) (h : s.row ≠ s.rows) (hmargin : s.count.toNat + 1048576 ≤ s.dstSize.toNat)
    (hcols : s.cols ≠ 0#32) : CoreEffect s { s with col := 0#32, phase := .pixel }
  | outOfRange (hphase : s.phase = .pixel) (h : 8192 ≤ (pixelDelta s).natAbs) :
    CoreEffect s (aborted .noHuffmanEntry (pixelMovedIn s))
  | encoded (hphase : s.phase = .pixel) (h : (pixelDelta s).natAbs ≤ 8191) (u : State)
    (happ : Appended (pixelMovedIn s) u (pixelBits s)) : CoreEffect s (nextPosition u)
  | finishedEmpty (hphase : s.phase = .finalFlush) (h : s.nbits = 0#5) : CoreEffect s (complete s)
  | finishedPadded (hphase : s.phase = .finalFlush) (h : s.nbits ≠ 0#5) (hroom : HasRoom s) :
    CoreEffect s (complete (padded s))

/-- Where the core's own step comes to a word write that has no room (R71). -/
def Overruns (s : State) : Prop :=
  ¬ HasRoom s ∧
    ((s.phase = .pixel ∧ (pixelDelta s).natAbs ≤ 8191 ∧ 32 ≤ s.nbits.toNat + (pixelBits s).length) ∨
      (s.phase = .finalFlush ∧ s.nbits ≠ 0#5))

theorem execRowCheck_effect {s : State} (hphase : s.phase = .rowCheck) :
    ∃ t, execRowCheck s = .next t ∧ CoreEffect s t := by
  by_cases hend : s.row = s.rows
  · exact ⟨_, execRowCheck_of_end hend, .rowsDone hphase hend⟩
  · rcases lt_or_ge s.dstSize.toNat (s.count.toNat + 1048576) with hm | hm
    · exact ⟨_, execRowCheck_of_margin hend hm, .marginTooSmall hphase hend hm⟩
    · by_cases hcols : s.cols = 0#32
      · exact ⟨_, execRowCheck_of_no_column hend hm hcols, .emptyRow hphase hend hm hcols⟩
      · exact ⟨_, execRowCheck_of_column hend hm hcols, .rowEntered hphase hend hm hcols⟩

theorem execPixel_effect {s : State} (hphase : s.phase = .pixel) :
    (∃ t, execPixel s = .next t ∧ CoreEffect s t) ∨ (execPixel s = .fault .dstOverrun ∧ Overruns s) := by
  rcases le_or_gt (pixelDelta s).natAbs 8191 with hdelta | hdelta
  · by_cases hfits : Fits s (pixelBits s).length
    · obtain ⟨u, hexec, happ⟩ := execPixel_appended hdelta hfits
      exact .inl ⟨_, hexec, .encoded hphase hdelta u happ⟩
    · obtain ⟨hfill, hroom⟩ := not_or.mp hfits
      exact .inr ⟨execPixel_of_no_room hdelta (not_lt.mp hfill) hroom, hroom, .inl ⟨hphase, hdelta, not_lt.mp hfill⟩⟩
  · exact .inl ⟨_, execPixel_of_gt hdelta, .outOfRange hphase hdelta⟩

theorem execFinalFlush_effect {s : State} (hphase : s.phase = .finalFlush) :
    (∃ t, execFinalFlush s = .next t ∧ CoreEffect s t) ∨ (execFinalFlush s = .fault .dstOverrun ∧ Overruns s) := by
  by_cases hempty : s.nbits = 0#5
  · exact .inl ⟨_, execFinalFlush_of_empty hempty, .finishedEmpty hphase hempty⟩
  · by_cases hroom : HasRoom s
    · exact .inl ⟨_, execFinalFlush_of_held hempty hroom, .finishedPadded hphase hempty hroom⟩
    · exact .inr ⟨execFinalFlush_of_no_room hempty hroom, hroom, .inr ⟨hphase, hempty⟩⟩

/-- The core's own step has one of its effects, or it overruns `DST` and faults; it is never refused. -/
theorem coreStep_cases (s : State) :
    (∃ t, coreStep s = .next t ∧ CoreEffect s t) ∨ (coreStep s = .fault .dstOverrun ∧ Overruns s) := by
  unfold coreStep
  split
  case h_1 hphase | h_7 hphase | h_8 hphase => exact .inl ⟨_, rfl, .rest (by rw [hphase]; rfl)⟩
  case h_2 hphase =>
    rcases le_or_gt (sourceNeed s) s.srcSize.toNat with h | h
    · exact .inl ⟨_, execCheckSrc_of_le h, .sourceChecked hphase h⟩
    · exact .inl ⟨_, execCheckSrc_of_gt h, .sourceTooSmall hphase h⟩
  case h_3 hphase => exact .inl ⟨_, rfl, .initialised hphase⟩
  case h_4 hphase => exact .inl (execRowCheck_effect hphase)
  case h_5 hphase => exact execPixel_effect hphase
  case h_6 hphase => exact execFinalFlush_effect hphase

theorem coreEffect_of_coreStep {s t : State} (h : coreStep s = .next t) : CoreEffect s t := by
  rcases coreStep_cases s with ⟨t', ht', heffect⟩ | ⟨hfault, -⟩
  · rw [h] at ht'
    cases ht'
    exact heffect
  · rw [h] at hfault
    cases hfault

/-- What an action of the host, or the reset pin, leads to (R31, R37, R182, R230, R232, R240). -/
inductive HostEffect (s : State) : Action → State → Prop
  | dropped (reg : Nat) (v : U64) : HostEffect s (.hostWrite reg v) s
  | start (v : U64) (hbit : v.getLsbD 0 = true) : HostEffect s (.hostWrite 0 v) (startPass s)
  | param (reg : Nat) (v : U64) (hrest : s.statusState ≠ 1#2) : HostEffect s (.hostWrite reg v) (setParam s v reg)
  | readReg (reg : Nat) : HostEffect s (.hostRead reg) (hostReadReg reg s)
  | loadSrc (off : Nat) : HostEffect s (.hostLoad .src off) (hostLoadSrc off s)
  | loadDst (off : Nat) : HostEffect s (.hostLoad .dst off) (hostLoadDst off s)
  | storeSrc (off : Nat) (b : Byte) : HostEffect s (.hostStore .src off b) (hostStoreSrc off b s)
  | storeDst (off : Nat) (b : Byte) : HostEffect s (.hostStore .dst off b) (hostStoreDst off b s)
  | reset : HostEffect s .resetPin (hardwareReset s)

theorem hostWriteReg_effect (reg : Nat) (v : U64) (s : State) : HostEffect s (.hostWrite reg v) (hostWriteReg reg v s) := by
  by_cases hreg : reg = 0
  · subst hreg
    rw [hostWriteReg_zero]
    split
    · rename_i hbit
      exact .start v hbit
    · exact .dropped 0 v
  · by_cases hbusy : s.statusState = 1#2
    · rw [hostWriteReg_busy hreg v hbusy]
      exact .dropped reg v
    · rw [hostWriteReg_rest hreg v hbusy]
      exact .param reg v hbusy

/-- An agent's action is the core's turn or an action of the host, which always goes on. -/
theorem act_cases {a : Action} (ha : a.ofAgent = true) (s : State) :
    (a = .core ∧ act a s = coreStep s) ∨ ∃ t, act a s = .next t ∧ HostEffect s a t := by
  match a with
  | .core => exact .inl ⟨rfl, rfl⟩
  | .hostWrite reg v => exact .inr ⟨_, rfl, hostWriteReg_effect reg v s⟩
  | .hostRead reg => exact .inr ⟨_, rfl, .readReg reg⟩
  | .hostStore .src off b => exact .inr ⟨_, rfl, .storeSrc off b⟩
  | .hostStore .dst off b => exact .inr ⟨_, rfl, .storeDst off b⟩
  | .hostLoad .src off => exact .inr ⟨_, rfl, .loadSrc off⟩
  | .hostLoad .dst off => exact .inr ⟨_, rfl, .loadDst off⟩
  | .resetPin => exact .inr ⟨_, rfl, .reset⟩
  | .frame f => cases ha

/-- The state once its first action has been taken off the list. -/
def taken (s : State) : State :=
  { s with pending := s.pending.tail }

/-- A step of the two agents: the core's own, or an action of the host. -/
theorem step_cases {s : State} (hagents : AgentsOnly s) :
    ((s.pending = [] ∨ s.pending.head? = some .core) ∧ step s = coreStep (taken s)) ∨
      ∃ a t, s.pending.head? = some a ∧ step s = .next t ∧ HostEffect (taken s) a t := by
  match hpending : s.pending with
  | [] =>
    have htaken : taken s = s := by
      unfold taken
      rw [hpending, List.tail_nil, ← hpending]
    exact .inl ⟨.inl rfl, by rw [step_of_nil hpending, htaken]⟩
  | a :: rest =>
    have htaken : taken s = { s with pending := rest } := by rw [taken, hpending, List.tail_cons]
    have ha : a.ofAgent = true := by
      rw [AgentsOnly, hpending, List.all_cons, Bool.and_eq_true] at hagents
      exact hagents.1
    rw [step_of_cons hpending, htaken]
    rcases act_cases ha { s with pending := rest } with ⟨rfl, hcore⟩ | ⟨t, ht, heffect⟩
    · exact .inl ⟨.inr rfl, hcore⟩
    · exact .inr ⟨a, t, rfl, ht, heffect⟩

theorem agentsOnly_taken {s : State} (h : AgentsOnly s) : AgentsOnly (taken s) := by
  rw [AgentsOnly, List.all_eq_true] at h
  exact List.all_eq_true.mpr fun a ha => h a (List.mem_of_mem_tail ha)

/-- A property of the state's registers and buffers that the effects of both agents keep is kept by every step. -/
theorem step_keeps {P : State → Prop} {s t : State} (hagents : AgentsOnly s) (hs : P (taken s))
    (hcore : ∀ u, P (taken s) → CoreEffect (taken s) u → P u)
    (hhost : ∀ a u, P (taken s) → HostEffect (taken s) a u → P u) (h : step s = .next t) : P t := by
  rcases step_cases hagents with ⟨-, hstep⟩ | ⟨a, u, -, hstep, heffect⟩
  · exact hcore t hs (coreEffect_of_coreStep (hstep ▸ h))
  · rw [hstep] at h
    cases h
    exact hhost a t hs heffect

/-! ## What every effect leaves unchanged -/

/-- What no step of the core changes: the parameters, the source, the byte order and the model's own fields. -/
def CoreFrame (s t : State) : Prop :=
  SameParameters s t ∧ t.out = s.out ∧ t.freeCtr = s.freeCtr ∧ t.srcPast = s.srcPast ∧ t.dstBefore = s.dstBefore ∧
    t.pending = s.pending

theorem CoreFrame.refl (s : State) : CoreFrame s s :=
  ⟨⟨⟨rfl, rfl, rfl, rfl, rfl, rfl⟩, rfl⟩, rfl, rfl, rfl, rfl, rfl⟩

theorem coreFrame_nextPosition {s u : State} (h : OnlyWriter (pixelMovedIn s) u) : CoreFrame s (nextPosition u) := by
  obtain ⟨a, n, p, k, m, rfl⟩ := onlyWriter_iff.mp h
  rw [nextPosition_frame]
  exact CoreFrame.refl s

theorem CoreEffect.frame {s t : State} (h : CoreEffect s t) : CoreFrame s t := by
  cases h with
  | encoded _ _ u happ => exact coreFrame_nextPosition happ.onlyWriter
  | rest | sourceTooSmall | sourceChecked | initialised | rowsDone | marginTooSmall | emptyRow | rowEntered | outOfRange
  | finishedEmpty | finishedPadded => exact CoreFrame.refl s

/-- A parameter write changes the five parameters only. -/
theorem exists_setParam_eq (s : State) (v : U64) (reg : Nat) :
    ∃ c r p m n, setParam s v reg = { s with cols := c, rows := r, startPred := p, srcSize := m, dstSize := n } := by
  unfold setParam
  split <;> exact ⟨_, _, _, _, _, rfl⟩

end Sys2Proof.Machine
end

section
/-! What the two agents leave unchanged, and where a pass begins and ends (R13, R37, R40, R230, R231). -/

namespace Sys2Proof.Machine
open Sys2Proof.Claims

/-- A store into `DST` changes the buffer and the model's record of it. -/
theorem exists_hostStoreDst_eq (s : State) (off : Nat) (b : Byte) :
    ∃ m m' k, hostStoreDst off b s = { s with dst := m, dstBefore := m', freeCtr := k } := by
  unfold hostStoreDst
  split <;> exact ⟨_, _, _, rfl⟩

/-- A load of `DST` changes nothing but what was returned and the counter of free values. -/
theorem exists_hostLoadDst_eq (s : State) (off : Nat) : ∃ o k, hostLoadDst off s = { s with out := o, freeCtr := k } := by
  unfold hostLoadDst
  split <;> exact ⟨_, _, rfl⟩

/-- `STATUS` and `RESULT` are as before. -/
def SameStatus (s t : State) : Prop :=
  t.statusState = s.statusState ∧ t.statusErr = s.statusErr ∧ t.result = s.result

theorem sameStatus_nextPosition {s u : State} (h : OnlyWriter (pixelMovedIn s) u) : SameStatus s (nextPosition u) := by
  obtain ⟨a, n, p, k, m, rfl⟩ := onlyWriter_iff.mp h
  rw [nextPosition_frame]
  exact ⟨rfl, rfl, rfl⟩

/-- The core's own step changes `STATUS` or `RESULT` only where it ends the pass (R33, R36). -/
theorem CoreEffect.sameStatus_or_ends {s t : State} (h : CoreEffect s t) :
    SameStatus s t ∨ (restPhase s.phase = false ∧ (t.phase = .done ∨ t.phase = .error)) := by
  cases h with
  | encoded _ _ u happ => exact .inl (sameStatus_nextPosition happ.onlyWriter)
  | rest | sourceChecked | initialised | rowsDone | emptyRow | rowEntered => exact .inl ⟨rfl, rfl, rfl⟩
  | sourceTooSmall hphase | marginTooSmall hphase | outOfRange hphase => exact .inr ⟨by rw [hphase]; rfl, .inr rfl⟩
  | finishedEmpty hphase | finishedPadded hphase => exact .inr ⟨by rw [hphase]; rfl, .inl rfl⟩

/-- An action of the host changes `STATUS` or `RESULT` only where it is START at rest or the reset pin. -/
theorem HostEffect.sameStatus_or_starts {s t : State} {a : Action} (h : HostEffect s a t) :
    SameStatus s t ∨ a = .resetPin ∨
      (restPhase s.phase = true ∧ t.phase = .checkSrc ∧ ∃ v : U64, v.getLsbD 0 = true ∧ a = .hostWrite 0 v) := by
  cases h with
  | reset => exact .inr (.inl rfl)
  | start v hbit =>
    cases hphase : restPhase s.phase with
    | true => exact .inr (.inr ⟨rfl, by rw [startPass_rest hphase], v, hbit, rfl⟩)
    | false => exact .inl (by rw [startPass_busy hphase]; exact ⟨rfl, rfl, rfl⟩)
  | param reg v =>
    obtain ⟨c, r, p, m, n, hset⟩ := exists_setParam_eq s v reg
    exact .inl (by rw [hset]; exact ⟨rfl, rfl, rfl⟩)
  | storeSrc off b => exact .inl (by rw [hostStoreSrc_eq]; exact ⟨rfl, rfl, rfl⟩)
  | storeDst off b =>
    obtain ⟨m, m', k, hstore⟩ := exists_hostStoreDst_eq s off b
    exact .inl (by rw [hstore]; exact ⟨rfl, rfl, rfl⟩)
  | loadDst off =>
    obtain ⟨o, k, hload⟩ := exists_hostLoadDst_eq s off
    exact .inl (by rw [hload]; exact ⟨rfl, rfl, rfl⟩)
  | dropped | readReg | loadSrc => exact .inl ⟨rfl, rfl, rfl⟩

/-- While BUSY the host changes no parameter, and the source only by a store into it (R37, R240). -/
theorem HostEffect.sameRegisters_of_busy {s t : State} {a : Action} (h : HostEffect s a t) (hbusy : s.statusState = 1#2)
    (hreset : a ≠ .resetPin) : SameRegisters s t ∧ (t.src = s.src ∨ ∃ off b, a = .hostStore .src off b) := by
  cases h with
  | reset => exact absurd rfl hreset
  | param reg v hrest => exact absurd hbusy hrest
  | start v =>
    cases hphase : restPhase s.phase with
    | true => rw [startPass_rest hphase]; exact ⟨⟨rfl, rfl, rfl, rfl, rfl, rfl⟩, .inl rfl⟩
    | false => rw [startPass_busy hphase]; exact ⟨⟨rfl, rfl, rfl, rfl, rfl, rfl⟩, .inl rfl⟩
  | storeSrc off b => rw [hostStoreSrc_eq]; exact ⟨⟨rfl, rfl, rfl, rfl, rfl, rfl⟩, .inr ⟨off, b, rfl⟩⟩
  | storeDst off b =>
    obtain ⟨m, m', k, hstore⟩ := exists_hostStoreDst_eq s off b
    rw [hstore]
    exact ⟨⟨rfl, rfl, rfl, rfl, rfl, rfl⟩, .inl rfl⟩
  | loadDst off =>
    obtain ⟨o, k, hload⟩ := exists_hostLoadDst_eq s off
    rw [hload]
    exact ⟨⟨rfl, rfl, rfl, rfl, rfl, rfl⟩, .inl rfl⟩
  | dropped | readReg | loadSrc => exact ⟨⟨rfl, rfl, rfl, rfl, rfl, rfl⟩, .inl rfl⟩

/-- The core writes no byte of `DST` outside the four at `cursor` (R67). -/
theorem CoreEffect.read_dst {s t : State} (h : CoreEffect s t) {a : Nat} (ha : a < s.cursor.toNat ∨ s.cursor.toNat + 4 ≤ a) :
    t.dst.read a = s.dst.read a := by
  cases h with
  | encoded _ _ u happ =>
    have hmoved := happ.moved
    have hdst : (nextPosition u).dst = u.dst := by rw [nextPosition_frame]
    rw [hdst]
    unfold WriterMoved at hmoved
    split at hmoved
    · obtain ⟨-, -, -, hsame⟩ := hmoved
      exact congrArg (Memory.read · a) hsame
    · obtain ⟨-, -, -, hother⟩ := hmoved
      exact hother a ha
  | finishedPadded => exact Memory.read_writeWord_other _ _ ha
  | rest | sourceTooSmall | sourceChecked | initialised | rowsDone | marginTooSmall | emptyRow | rowEntered | outOfRange
  | finishedEmpty => rfl

/-! ## A run of the core -/

theorem runSteps_succ_of_step {s t : State} (h : step s = .next t) (n : Nat) : runSteps (n + 1) s = runSteps n t := by
  rw [runSteps, h, andThen_next]

section
variable {s : State} (hpending : s.pending = [])
include hpending

theorem step_checkSrc (h : s.phase = .checkSrc) : step s = execCheckSrc s := by rw [step_of_nil hpending, coreStep, h]

theorem step_init (h : s.phase = .init) : step s = .next { initRegs s with phase := .rowCheck } := by
  rw [step_of_nil hpending, coreStep, h]
  rfl

theorem step_rowCheck (h : s.phase = .rowCheck) : step s = execRowCheck s := by rw [step_of_nil hpending, coreStep, h]

theorem step_pixel (h : s.phase = .pixel) : step s = execPixel s := by rw [step_of_nil hpending, coreStep, h]

theorem step_finalFlush (h : s.phase = .finalFlush) : step s = execFinalFlush s := by rw [step_of_nil hpending, coreStep, h]

end

/-- A pass over no rows needs no source byte, writes no word and reports 0 (R172, R175, R179). -/
theorem runSteps_of_no_rows {s : State} (hpending : s.pending = []) (hphase : s.phase = .checkSrc) (hrows : s.rows = 0#32) :
    runSteps 4 s = .next (complete { initRegs s with phase := .finalFlush }) := by
  have hneed : sourceNeed s ≤ s.srcSize.toNat := by simp [sourceNeed, hrows]
  have hcheck : step s = .next { s with phase := .init } :=
    (step_checkSrc hpending hphase).trans (execCheckSrc_of_le hneed)
  have hinit : step { s with phase := .init } = .next { initRegs s with phase := .rowCheck } := step_init hpending rfl
  have hrow : step { initRegs s with phase := .rowCheck } = .next { initRegs s with phase := .finalFlush } :=
    (step_rowCheck (s := { initRegs s with phase := .rowCheck }) hpending rfl).trans (execRowCheck_of_end hrows.symm)
  have hflush : step { initRegs s with phase := .finalFlush } = .next (complete { initRegs s with phase := .finalFlush }) :=
    (step_finalFlush (s := { initRegs s with phase := .finalFlush }) hpending rfl).trans
      (execFinalFlush_of_empty rfl)
  rw [runSteps_succ_of_step hcheck, runSteps_succ_of_step hinit, runSteps_succ_of_step hrow, runSteps_succ_of_step hflush,
    runSteps]

end Sys2Proof.Machine

namespace Sys2Proof.Proofs
open Sys2Proof Sys2Proof.Machine Sys2Proof.Claims

/-- Settles O40: the reset writes the host side and the datapath registers, which the statement leaves open. -/
theorem hardwareResetClearsTheHostSide : Obligations.HardwareResetClearsTheHostSide := by
  unfold Obligations.HardwareResetClearsTheHostSide
  exact fun s => ⟨_, rfl, rfl⟩

/-- Settles O41: the values are written in the definition of the state. -/
theorem resetStateHoldsTheSpecsValues : Obligations.ResetStateHoldsTheSpecsValues := by
  unfold Obligations.ResetStateHoldsTheSpecsValues
  exact ⟨rfl, rfl, rfl, rfl, rfl, rfl, rfl, rfl⟩

/-- Settles O43: the reset state is at rest, where the invariants speak of `STATUS`, `RESULT` and the buffers only. -/
theorem invariantsHoldAtReset : Obligations.InvariantsHoldAtReset := by
  unfold Obligations.InvariantsHoldAtReset
  exact ⟨⟨rfl, ⟨rfl, rfl, rfl⟩, ⟨rfl, rfl, rfl⟩, trivial⟩, trivial, trivial⟩

/-- Settles O42: the reset leaves no rows to encode, and INIT empties the writer whatever the reset left in it. -/
theorem unprogrammedPassAfterResetIsEmpty : Obligations.UnprogrammedPassAfterResetIsEmpty := by
  unfold Obligations.UnprogrammedPassAfterResetIsEmpty
  intro s hpending
  exact ⟨_, startPass (hardwareReset s), _, rfl, rfl, runSteps_of_no_rows hpending rfl rfl, rfl, rfl, rfl, rfl, rfl, rfl⟩

/-- Settles O48: the effects that change `STATUS` or `RESULT` are the ends of a pass, START at rest and the reset pin. -/
theorem statusChangesOnlyAtTheEndsOfAPass : Obligations.StatusChangesOnlyAtTheEndsOfAPass := by
  unfold Obligations.StatusChangesOnlyAtTheEndsOfAPass
  intro s t hagents hstep
  rcases step_cases hagents with ⟨hturn, hcore⟩ | ⟨a, u, hhead, hhost, heffect⟩
  · rcases (coreEffect_of_coreStep (hcore ▸ hstep)).sameStatus_or_ends with hsame | ⟨hpass, hend⟩
    · exact .inl hsame
    · exact .inr (.inr (.inr ⟨hpass, hturn, hend⟩))
  · obtain rfl : u = t := by rw [hhost] at hstep; exact Host.Outcome.next.inj hstep
    rw [hhead]
    rcases heffect.sameStatus_or_starts with hsame | rfl | ⟨hrest, hcheck, v, hbit, rfl⟩
    · exact .inl hsame
    · exact .inr (.inl rfl)
    · exact .inr (.inr (.inl ⟨hrest, hcheck, v, hbit, rfl⟩))

/-- Settles O49: no effect but the reset pin reaches the parameters while BUSY, and only a store into it reaches `SRC`. -/
theorem parametersAreFrozenDuringAPass : Obligations.ParametersAreFrozenDuringAPass := by
  unfold Obligations.ParametersAreFrozenDuringAPass
  intro s t hbusy hagents hreset hstep
  rcases step_cases hagents with ⟨-, hcore⟩ | ⟨a, u, hhead, hhost, heffect⟩
  · obtain ⟨⟨hregisters, hsrc⟩, -⟩ := (coreEffect_of_coreStep (hcore ▸ hstep)).frame
    exact ⟨hregisters, .inl hsrc⟩
  · obtain rfl : u = t := by rw [hhost] at hstep; exact Host.Outcome.next.inj hstep
    rw [hhead] at hreset ⊢
    obtain ⟨hregisters, hsrc⟩ := heffect.sameRegisters_of_busy hbusy fun ha => hreset (congrArg some ha)
    exact ⟨hregisters, hsrc.imp_right fun ⟨off, b, ha⟩ => ⟨off, b, congrArg some ha⟩⟩

/-- Settles O50: the core's effects have the frame, and write at `cursor` only. -/
theorem coreStepsWriteOnlyOneWord : Obligations.CoreStepsWriteOnlyOneWord := by
  unfold Obligations.CoreStepsWriteOnlyOneWord
  intro s t hpending hstep
  have heffect := coreEffect_of_coreStep ((step_of_nil hpending).symm.trans hstep)
  obtain ⟨hparameters, hout, hctr, hpast, hbefore, hpend⟩ := heffect.frame
  exact ⟨hparameters, hout, hctr, hpast, hbefore, hpend.trans hpending, fun a ha => heffect.read_dst ha⟩

end Sys2Proof.Proofs
end

section
/-! The invariant of the machine (R42) is kept by the effects of both agents: what the writer keeps in a pass, what `STATUS`
says in each phase, and what an access of the host can disturb. -/

namespace Sys2Proof.Machine
open Sys2Proof.Claims

/-! ## The writer in a pass -/

/-- What `WriterInPass` says where the words of the pass end at `cursor`, that is, once INIT is past. -/
def WriterSound (s : State) : Prop :=
  AccClean s ∧ s.cursor.toNat % 4 = 0 ∧ s.count = s.cursor ∧ s.cursor.toNat ≤ s.dstSize.toNat ∧
    ∀ a : Nat, s.cursor.toNat ≤ a → s.dst.read a = s.dstBefore.read a

theorem passAgrees_rowCheck {s : State} (h : s.phase = .rowCheck) :
    PassAgrees s ↔ sourceNeed s ≤ s.srcSize.toNat ∧ WriterSound s ∧ s.row.toNat ≤ s.rows.toNat := by
  unfold PassAgrees WriterInPass UntouchedBeyondWords wordsEnd WriterSound
  rw [h]

theorem passAgrees_pixel {s : State} (h : s.phase = .pixel) :
    PassAgrees s ↔ sourceNeed s ≤ s.srcSize.toNat ∧ WriterSound s ∧ s.row.toNat < s.rows.toNat ∧
      s.col.toNat < s.cols.toNat := by
  unfold PassAgrees WriterInPass UntouchedBeyondWords wordsEnd WriterSound
  rw [h]

theorem passAgrees_finalFlush {s : State} (h : s.phase = .finalFlush) :
    PassAgrees s ↔ sourceNeed s ≤ s.srcSize.toNat ∧ WriterSound s ∧ s.row = s.rows := by
  unfold PassAgrees WriterInPass UntouchedBeyondWords wordsEnd WriterSound
  rw [h]

theorem passAgrees_checkSrc {s : State} (h : s.phase = .checkSrc) :
    PassAgrees s ↔ ∀ a : Nat, s.dst.read a = s.dstBefore.read a := by
  unfold PassAgrees UntouchedBeyondWords wordsEnd
  rw [h]
  exact ⟨fun hu a => hu a (Nat.zero_le a), fun hu a _ => hu a⟩

theorem passAgrees_init {s : State} (h : s.phase = .init) :
    PassAgrees s ↔ sourceNeed s ≤ s.srcSize.toNat ∧ ∀ a : Nat, s.dst.read a = s.dstBefore.read a := by
  unfold PassAgrees UntouchedBeyondWords wordsEnd
  rw [h]
  exact and_congr_right fun _ => ⟨fun hu a => hu a (Nat.zero_le a), fun hu a _ => hu a⟩

/-- The two outcomes of an append for the writer's position. -/
theorem Appended.moved_cases {s t : State} {bits : List Bool} (h : Appended s t bits) :
    (s.nbits.toNat + bits.length < 32 ∧ t.nbits.toNat = s.nbits.toNat + bits.length ∧ t.cursor = s.cursor ∧
        t.count = s.count ∧ t.dst = s.dst) ∨
      (32 ≤ s.nbits.toNat + bits.length ∧ HasRoom s ∧ t.nbits.toNat + 32 = s.nbits.toNat + bits.length ∧
        t.cursor.toNat = s.cursor.toNat + 4 ∧ t.cursor = s.cursor + 4#64 ∧ t.count = s.count + 4#64 ∧
        ∀ a : Nat, (a < s.cursor.toNat ∨ s.cursor.toNat + 4 ≤ a) → t.dst.read a = s.dst.read a) := by
  have hmoved := h.moved
  unfold WriterMoved at hmoved
  split at hmoved
  · rename_i hlt
    exact .inl ⟨hlt, hmoved⟩
  · rename_i hge
    obtain ⟨hnbits, hcursor, hcount, hother⟩ := hmoved
    have hroom : HasRoom s := h.fits.resolve_left hge
    have hnat : t.cursor.toNat = s.cursor.toNat + 4 := by rw [hcursor]; exact cursor_putWord s.acc 4 hroom
    exact .inr ⟨not_lt.mp hge, hroom, by omega, hnat, hcursor, hcount, hother⟩

theorem Appended.writerSound {s t : State} {bits : List Bool} (h : Appended s t bits) (hs : WriterSound s) :
    WriterSound t := by
  obtain ⟨hclean, halign, hcount, hbound, huntouched⟩ := hs
  have hclean' := h.clean hclean
  have hmoved := h.moved_cases
  obtain ⟨a, n, p, k, m, rfl⟩ := onlyWriter_iff.mp h.onlyWriter
  rcases hmoved with ⟨-, -, hp, hk, hm⟩ | ⟨-, hroom, -, hnat, hp, hk, hother⟩
  · dsimp only at hp hk hm
    subst hp hk hm
    exact ⟨hclean', halign, hcount, hbound, huntouched⟩
  · dsimp only at hnat hp hk hother
    refine ⟨hclean', ?_, ?_, ?_, fun b hb => ?_⟩
    · dsimp only
      omega
    · dsimp only
      rw [hk, hp, hcount]
    · dsimp only
      rw [hnat]
      exact hroom
    · dsimp only at hb
      exact (hother b (.inr (hnat ▸ hb))).trans (huntouched b (by omega))

theorem symBits_length_le {c : Nat} (hc : c ≤ 14) (d : Nat) : (symBits c d).length ≤ 22 := by
  obtain ⟨n, v, hn, hbits, -⟩ := exists_emitSymbol_eq_appendBits hc d
  rwa [hbits, natBits_length]

theorem pixelBits_length_le {s : State} (h : (pixelDelta s).natAbs ≤ 8191) : (pixelBits s).length ≤ 22 :=
  symBits_length_le (classOf_le_fourteen_iff.mpr h) _

/-! ## STATUS and RESULT -/

theorem statusAgrees_of_pass {s : State} (h : restPhase s.phase = false) :
    StatusAgrees s ↔ s.statusState = 1#2 ∧ s.statusErr = 0#2 ∧ s.result = 0#64 := by
  unfold StatusAgrees
  cases hphase : s.phase with
  | idle | done | error => rw [hphase] at h; cases h
  | checkSrc | init | rowCheck | pixel | finalFlush => exact Iff.rfl

/-- Inside a pass `STATUS` and `RESULT` do not change. -/
theorem StatusAgrees.of_sameStatus {s t : State} (h : StatusAgrees s) (hsame : SameStatus s t)
    (hs : restPhase s.phase = false) (ht : restPhase t.phase = false) : StatusAgrees t := by
  obtain ⟨hstate, herr, hresult⟩ := hsame
  rw [statusAgrees_of_pass ht, hstate, herr, hresult]
  exact (statusAgrees_of_pass hs).mp h

theorem statusAgrees_aborted (e : ErrKind) (s : State) : StatusAgrees (aborted e s) := ⟨rfl, e, rfl, rfl⟩

/-- A count that `DST` can hold is not negative in `RESULT`. -/
theorem toInt_nonneg_of_lt {x : U64} (h : x.toNat < 2 ^ 63) : 0 ≤ x.toInt := by
  rw [BitVec.toInt_eq_toNat_of_lt (by omega)]
  exact Int.natCast_nonneg _

theorem rest_of_not_busy {s : State} (h : StatusAgrees s) (hrest : s.statusState ≠ 1#2) : restPhase s.phase = true := by
  rw [h.1] at hrest
  cases hphase : s.phase with
  | idle | done | error => rfl
  | checkSrc | init | rowCheck | pixel | finalFlush => rw [hphase] at hrest; exact absurd rfl hrest

theorem restPhase_nextPosition (s : State) : restPhase (nextPosition s).phase = false := by
  unfold nextPosition
  split <;> rfl

/-- The count after the padded last word, and the position it fills up to (R134, R135 (c)). -/
theorem padded_count {s : State} (hs : WriterSound s) (hroom : HasRoom s) :
    (padded s).count.toNat = s.cursor.toNat + (s.nbits.toNat + 7) / 8 := by
  obtain ⟨-, -, hcount, -, -⟩ := hs
  have hn := nbits_lt s
  have hd := s.dstSize.isLt
  unfold HasRoom at hroom
  have hadd : (padded s).count = s.cursor + BitVec.ofNat 64 ((s.nbits.toNat + 7) / 8) := by rw [← hcount]; rfl
  rw [hadd, BitVec.toNat_add, BitVec.toNat_ofNat]
  omega

theorem CoreEffect.statusAgrees {s t : State} (h : CoreEffect s t) (hs : StatusAgrees s) (hpass : PassAgrees s) :
    StatusAgrees t := by
  cases h with
  | rest => exact hs
  | sourceTooSmall | marginTooSmall | outOfRange => exact statusAgrees_aborted _ _
  | sourceChecked hphase | initialised hphase | rowsDone hphase | emptyRow hphase | rowEntered hphase =>
    exact hs.of_sameStatus ⟨rfl, rfl, rfl⟩ (by rw [hphase]; rfl) rfl
  | encoded hphase _ u happ =>
    exact hs.of_sameStatus (sameStatus_nextPosition happ.onlyWriter) (by rw [hphase]; rfl) (restPhase_nextPosition u)
  | finishedEmpty hphase =>
    obtain ⟨-, ⟨-, -, hcount, hbound, -⟩, -⟩ := (passAgrees_finalFlush hphase).mp hpass
    obtain ⟨-, herr, -⟩ := (statusAgrees_of_pass (by rw [hphase]; rfl)).mp hs
    have hd := s.dstSize.isLt
    have hresult : (complete s).result.toNat = s.cursor.toNat := congrArg BitVec.toNat hcount
    refine ⟨rfl, herr, toInt_nonneg_of_lt ?_⟩
    omega
  | finishedPadded hphase _ hroom =>
    obtain ⟨-, hwriter, -⟩ := (passAgrees_finalFlush hphase).mp hpass
    obtain ⟨-, herr, -⟩ := (statusAgrees_of_pass (by rw [hphase]; rfl)).mp hs
    have hd := s.dstSize.isLt
    have hn := nbits_lt s
    refine ⟨rfl, herr, toInt_nonneg_of_lt ?_⟩
    have hcount : (complete (padded s)).result.toNat = s.cursor.toNat + (s.nbits.toNat + 7) / 8 :=
      padded_count hwriter hroom
    unfold HasRoom at hroom
    omega

/-! ## The pass -/

theorem CoreEffect.passAgrees {s t : State} (h : CoreEffect s t) (hpass : PassAgrees s) : PassAgrees t := by
  cases h with
  | rest => exact hpass
  | sourceTooSmall | marginTooSmall | outOfRange => trivial
  | sourceChecked hphase hneed => exact (passAgrees_init rfl).mpr ⟨hneed, (passAgrees_checkSrc hphase).mp hpass⟩
  | initialised hphase =>
    obtain ⟨hneed, huntouched⟩ := (passAgrees_init hphase).mp hpass
    exact (passAgrees_rowCheck rfl).mpr
      ⟨hneed, ⟨rfl, rfl, rfl, Nat.zero_le _, fun a _ => huntouched a⟩, Nat.zero_le _⟩
  | rowsDone hphase hend =>
    obtain ⟨hneed, hwriter, -⟩ := (passAgrees_rowCheck hphase).mp hpass
    exact (passAgrees_finalFlush rfl).mpr ⟨hneed, hwriter, hend⟩
  | emptyRow hphase hrow =>
    obtain ⟨hneed, hwriter, hle⟩ := (passAgrees_rowCheck hphase).mp hpass
    have hlt : s.row.toNat < s.rows.toNat := lt_of_le_of_ne hle (mt BitVec.eq_of_toNat_eq hrow)
    refine (passAgrees_rowCheck rfl).mpr ⟨hneed, hwriter, ?_⟩
    exact (toNat_add_one_of_lt hlt).trans_le hlt
  | rowEntered hphase hrow _ hcols =>
    obtain ⟨hneed, hwriter, hle⟩ := (passAgrees_rowCheck hphase).mp hpass
    exact (passAgrees_pixel rfl).mpr ⟨hneed, hwriter, lt_of_le_of_ne hle (mt BitVec.eq_of_toNat_eq hrow),
      Nat.pos_of_ne_zero fun h0 => hcols (BitVec.eq_of_toNat_eq h0)⟩
  | encoded hphase hdelta u happ =>
    obtain ⟨hneed, hwriter, hrow, hcol⟩ := (passAgrees_pixel hphase).mp hpass
    have hwriter' : WriterSound u := happ.writerSound hwriter
    obtain ⟨a, n, p, k, m, rfl⟩ := onlyWriter_iff.mp happ.onlyWriter
    by_cases hlast : s.col.toNat + 1 < s.cols.toNat
    · rw [nextPosition_of_lt (by exact hlast)]
      exact (passAgrees_pixel rfl).mpr ⟨hneed, hwriter', hrow,
        (toNat_add_one_of_lt hcol).trans_lt hlast⟩
    · rw [nextPosition_of_ge (by exact hlast)]
      exact (passAgrees_rowCheck rfl).mpr ⟨hneed, hwriter', (toNat_add_one_of_lt hrow).trans_le hrow⟩
  | finishedEmpty hphase hempty =>
    obtain ⟨-, ⟨hclean, halign, hcount, -, -⟩, -⟩ := (passAgrees_finalFlush hphase).mp hpass
    have hfull : s.cursor.toNat = 4 * ((s.count.toNat + 3) / 4) := by rw [hcount]; omega
    exact ⟨rfl, acc_eq_zero_of_empty hclean hempty, hempty, hfull⟩
  | finishedPadded hphase hheld hroom =>
    obtain ⟨-, hwriter, -⟩ := (passAgrees_finalFlush hphase).mp hpass
    have hcursor : (complete (padded s)).cursor.toNat = s.cursor.toNat + 4 :=
      cursor_putWord s.acc ((s.nbits.toNat + 7) / 8) hroom
    have hcount : (complete (padded s)).count.toNat = s.cursor.toNat + (s.nbits.toNat + 7) / 8 :=
      padded_count hwriter hroom
    have hpos : 0 < s.nbits.toNat := Nat.pos_of_ne_zero fun h0 => hheld (BitVec.eq_of_toNat_eq h0)
    have hn := nbits_lt s
    obtain ⟨-, halign, -⟩ := hwriter
    refine ⟨rfl, rfl, rfl, ?_⟩
    rw [hcursor, hcount]
    omega

/-! ## The buffers -/

theorem CoreEffect.buffersCanonical {s t : State} (h : CoreEffect s t) (hs : BuffersCanonical s) : BuffersCanonical t := by
  obtain ⟨⟨-, hsrc⟩, -, -, -, hbefore, -⟩ := h.frame
  obtain ⟨hsrcwf, hdstwf, hbeforewf⟩ := hs
  refine ⟨hsrc ▸ hsrcwf, ?_, hbefore ▸ hbeforewf⟩
  cases h with
  | encoded _ _ u happ =>
    rw [nextPosition_frame]
    exact happ.canonical hdstwf
  | finishedPadded => exact Memory.wf_writeWord _ _ _ hdstwf
  | rest | sourceTooSmall | sourceChecked | initialised | rowsDone | marginTooSmall | emptyRow | rowEntered | outOfRange
  | finishedEmpty => exact hdstwf

/-! ## The host -/

theorem HostEffect.statusAgrees {s t : State} {a : Action} (h : HostEffect s a t) (hs : StatusAgrees s) :
    StatusAgrees t := by
  cases h with
  | start v =>
    cases hphase : restPhase s.phase with
    | true => rw [startPass_rest hphase]; exact ⟨rfl, rfl, rfl⟩
    | false => rw [startPass_busy hphase]; exact hs
  | reset => exact ⟨rfl, rfl, rfl⟩
  | param reg v =>
    obtain ⟨c, r, p, m, n, hset⟩ := exists_setParam_eq s v reg
    rw [hset]
    exact hs
  | storeSrc off b => rw [hostStoreSrc_eq]; exact hs
  | storeDst off b =>
    obtain ⟨m, m', k, hstore⟩ := exists_hostStoreDst_eq s off b
    rw [hstore]
    exact hs
  | loadDst off =>
    obtain ⟨o, k, hload⟩ := exists_hostLoadDst_eq s off
    rw [hload]
    exact hs
  | dropped | readReg | loadSrc => exact hs

theorem HostEffect.buffersCanonical {s t : State} {a : Action} (h : HostEffect s a t) (hs : BuffersCanonical s) :
    BuffersCanonical t := by
  obtain ⟨hsrc, hdst, hbefore⟩ := id hs
  cases h with
  | start v =>
    cases hphase : restPhase s.phase with
    | true => rw [startPass_rest hphase]; exact ⟨hsrc, hdst, hdst⟩
    | false => rw [startPass_busy hphase]; exact hs
  | param reg v =>
    obtain ⟨c, r, p, m, n, hset⟩ := exists_setParam_eq s v reg
    rw [hset]
    exact hs
  | storeSrc off b =>
    rw [hostStoreSrc_eq]
    exact ⟨Memory.wf_write _ _ _ hsrc, hdst, hbefore⟩
  | storeDst off b =>
    cases hbusy : isBusy s with
    | true =>
      obtain ⟨v, -, hstore⟩ := hostStoreDst_busy off b hbusy
      rw [hstore]
      exact ⟨hsrc, Memory.wf_write _ _ _ hdst, Memory.wf_write _ _ _ hbefore⟩
    | false =>
      rw [hostStoreDst_rest off b hbusy]
      exact ⟨hsrc, Memory.wf_write _ _ _ hdst, hbefore⟩
  | loadDst off =>
    obtain ⟨o, k, hload⟩ := exists_hostLoadDst_eq s off
    rw [hload]
    exact hs
  | dropped | readReg | loadSrc | reset => exact hs

/-- At rest `PassAgrees` speaks of the report of the last pass only, not of the parameters or the buffers. -/
theorem passAgrees_of_rest {s t : State} (hrest : restPhase s.phase = true) (hphase : t.phase = s.phase)
    (hresult : t.result = s.result) (hcount : t.count = s.count) (hacc : t.acc = s.acc) (hnbits : t.nbits = s.nbits)
    (hcursor : t.cursor = s.cursor) (h : PassAgrees s) : PassAgrees t := by
  unfold PassAgrees at h ⊢
  rw [hphase]
  cases hp : s.phase with
  | idle | error => trivial
  | done =>
    rw [hp] at h
    dsimp only at h ⊢
    rwa [hresult, hcount, hacc, hnbits, hcursor]
  | checkSrc | init | rowCheck | pixel | finalFlush => rw [hp] at hrest; cases hrest

/-- In a pass a change of `DST` that the record follows, beyond the words of the pass, disturbs nothing. -/
theorem passAgrees_of_untouched {s : State} {m m' : Memory} {k : Nat}
    (hm : UntouchedBeyondWords s → UntouchedBeyondWords { s with dst := m, dstBefore := m', freeCtr := k })
    (h : PassAgrees s) : PassAgrees { s with dst := m, dstBefore := m', freeCtr := k } := by
  unfold PassAgrees WriterInPass at h ⊢
  dsimp only
  split
  case h_1 | h_3 => trivial
  case h_2 hp => rw [hp] at h; exact hm h
  case h_4 hp =>
    rw [hp] at h
    exact h.imp_right hm
  case h_8 hp => rw [hp] at h; exact h
  case h_5 hp | h_6 hp | h_7 hp =>
    rw [hp] at h
    obtain ⟨hneed, ⟨hclean, halign, hcount, hbound, huntouched⟩, hplace⟩ := h
    exact ⟨hneed, ⟨hclean, halign, hcount, hbound, hm huntouched⟩, hplace⟩

theorem HostEffect.passAgrees {s t : State} {a : Action} (h : HostEffect s a t) (hs : StatusAgrees s)
    (hpass : PassAgrees s) : PassAgrees t := by
  cases h with
  | start v =>
    cases hphase : restPhase s.phase with
    | true => rw [startPass_rest hphase]; exact fun _ _ => rfl
    | false => rw [startPass_busy hphase]; exact hpass
  | reset => trivial
  | param reg v hrest =>
    obtain ⟨c, r, p, m, n, hset⟩ := exists_setParam_eq s v reg
    rw [hset]
    exact passAgrees_of_rest (rest_of_not_busy hs hrest) rfl rfl rfl rfl rfl rfl hpass
  | storeSrc off b => rw [hostStoreSrc_eq]; exact hpass
  | storeDst off b =>
    cases hbusy : isBusy s with
    | true =>
      obtain ⟨v, hv, hstore⟩ := hostStoreDst_busy off b hbusy
      rw [hstore]
      refine passAgrees_of_untouched (fun huntouched a ha => ?_) hpass
      by_cases hoff : a = off
      · subst hoff
        have hbyte : v = b := hv.resolve_right fun hunder => not_lt.mpr ha hunder.1
        exact ((Memory.read_write_same _ _ _).trans (congrArg some hbyte)).trans (Memory.read_write_same _ _ _).symm
      · exact ((Memory.read_write_other _ _ hoff).trans (huntouched a ha)).trans (Memory.read_write_other _ _ hoff).symm
    | false =>
      rw [hostStoreDst_rest off b hbusy]
      exact passAgrees_of_rest (rest_of_not_busy hs (isBusy_eq_false_iff.mp hbusy)) rfl rfl rfl rfl rfl rfl hpass
  | loadDst off =>
    obtain ⟨o, k, hload⟩ := exists_hostLoadDst_eq s off
    rw [hload]
    exact hpass
  | dropped | readReg | loadSrc => exact hpass

/-- No action of the host puts another one on the list (R240). -/
theorem HostEffect.pending {s t : State} {a : Action} (h : HostEffect s a t) : t.pending = s.pending := by
  cases h with
  | start v =>
    cases hphase : restPhase s.phase with
    | true => rw [startPass_rest hphase]
    | false => rw [startPass_busy hphase]
  | param reg v =>
    obtain ⟨c, r, p, m, n, hset⟩ := exists_setParam_eq s v reg
    rw [hset]
  | storeSrc off b => rw [hostStoreSrc_eq]
  | storeDst off b =>
    obtain ⟨m, m', k, hstore⟩ := exists_hostStoreDst_eq s off b
    rw [hstore]
  | loadDst off =>
    obtain ⟨o, k, hload⟩ := exists_hostLoadDst_eq s off
    rw [hload]
  | dropped | readReg | loadSrc | reset => rfl

/-! ## The invariant -/

theorem inv_taken {s : State} (h : Inv s) : Inv (taken s) := by
  obtain ⟨hagents, hstatus, hbuffers, hpass⟩ := h
  exact ⟨agentsOnly_taken hagents, hstatus, hbuffers, hpass⟩

theorem CoreEffect.inv {s t : State} (h : CoreEffect s t) (hs : Inv s) : Inv t := by
  obtain ⟨hagents, hstatus, hbuffers, hpass⟩ := hs
  obtain ⟨-, -, -, -, -, hpending⟩ := h.frame
  exact ⟨by rwa [AgentsOnly, hpending], h.statusAgrees hstatus hpass, h.buffersCanonical hbuffers, h.passAgrees hpass⟩

theorem HostEffect.inv {s t : State} {a : Action} (h : HostEffect s a t) (hs : Inv s) : Inv t := by
  obtain ⟨hagents, hstatus, hbuffers, hpass⟩ := hs
  exact ⟨by rwa [AgentsOnly, h.pending], h.statusAgrees hstatus, h.buffersCanonical hbuffers, h.passAgrees hstatus hpass⟩

end Sys2Proof.Machine

namespace Sys2Proof.Proofs
open Sys2Proof Sys2Proof.Machine Sys2Proof.Claims

/-- Settles O44: every effect of either agent keeps each part of the invariant. -/
theorem everyStepKeepsTheInvariant : Obligations.EveryStepKeepsTheInvariant := by
  unfold Obligations.EveryStepKeepsTheInvariant
  intro s t hinv hstep
  exact step_keeps hinv.1 (inv_taken hinv) (fun _ hs heffect => heffect.inv hs) (fun _ _ hs heffect => heffect.inv hs) hstep

end Sys2Proof.Proofs
end

section
/-! The margin of R71: the check at the head of a row lets the writer start below `DST_SIZE - 1 MiB`, and a pixel adds at most
22 bits, so a row of at most 381 298 columns ends below `DST_SIZE`. -/

namespace Sys2Proof.Machine
open Sys2Proof.Claims

/-- How many bits the words and the accumulator hold. -/
def position (s : State) : Nat :=
  8 * s.cursor.toNat + s.nbits.toNat

theorem Appended.position {s t : State} {bits : List Bool} (h : Appended s t bits) :
    position t = position s + bits.length := by
  unfold Machine.position
  rcases h.moved_cases with ⟨-, hn, hp, -, -⟩ | ⟨-, -, hn, hp, -, -, -⟩
  · rw [hn, hp, Nat.add_assoc]
  · omega

/-- The bound on the position after `n` pixels of the row. -/
def WithinMargin (s : State) (n : Nat) : Prop :=
  1048576 ≤ s.dstSize.toNat ∧ position s ≤ 8 * marginBase s + 31 + 22 * n

theorem marginAgrees_pixel {s : State} (h : s.phase = .pixel) : MarginAgrees s ↔ WithinMargin s s.col.toNat := by
  unfold MarginAgrees
  rw [h]
  exact Iff.rfl

theorem marginAgrees_rowCheck {s : State} (h : s.phase = .rowCheck) :
    MarginAgrees s ↔ (s.cursor = 0#64 ∧ s.nbits = 0#5) ∨ WithinMargin s s.cols.toNat := by
  unfold MarginAgrees
  rw [h]
  exact Iff.rfl

theorem marginAgrees_finalFlush {s : State} (h : s.phase = .finalFlush) :
    MarginAgrees s ↔ (s.cursor = 0#64 ∧ s.nbits = 0#5) ∨ WithinMargin s s.cols.toNat := by
  unfold MarginAgrees
  rw [h]
  exact Iff.rfl

theorem marginAgrees_of_rest {s : State} (h : restPhase s.phase = true) : MarginAgrees s := by
  unfold MarginAgrees
  rcases restPhase_iff.mp h with hp | hp | hp <;> rw [hp] <;> trivial

/-- A margin check that passes bounds the position by the base of the row. -/
theorem withinMargin_of_check {s : State} (hs : WriterSound s) (hmargin : s.count.toNat + 1048576 ≤ s.dstSize.toNat) :
    WithinMargin s 0 := by
  obtain ⟨-, halign, hcount, -, -⟩ := hs
  have hn := nbits_lt s
  rw [hcount] at hmargin
  refine ⟨by omega, ?_⟩
  unfold position marginBase Config.dstMargin
  omega

theorem WithinMargin.append {s t : State} {bits : List Bool} {n : Nat} (h : WithinMargin s n) (happ : Appended s t bits)
    (hbits : bits.length ≤ 22) : WithinMargin t (n + 1) := by
  obtain ⟨hsize, hbound⟩ := h
  have hposition := happ.position
  obtain ⟨a, m, p, k, d, rfl⟩ := onlyWriter_iff.mp happ.onlyWriter
  have hbase : marginBase { s with acc := a, nbits := m, cursor := p, count := k, dst := d } = marginBase s := rfl
  exact ⟨hsize, by rw [hposition, hbase]; omega⟩

theorem CoreEffect.marginAgrees {s t : State} (h : CoreEffect s t) (hpass : PassAgrees s) (hs : MarginAgrees s) :
    MarginAgrees t := by
  cases h with
  | rest => exact hs
  | sourceTooSmall | marginTooSmall | outOfRange | sourceChecked | finishedEmpty | finishedPadded => trivial
  | initialised => exact (marginAgrees_rowCheck rfl).mpr (.inl ⟨rfl, rfl⟩)
  | rowsDone hphase => exact (marginAgrees_finalFlush rfl).mpr ((marginAgrees_rowCheck hphase).mp hs)
  | emptyRow hphase => exact (marginAgrees_rowCheck rfl).mpr ((marginAgrees_rowCheck hphase).mp hs)
  | rowEntered hphase _ hmargin =>
    obtain ⟨-, hwriter, -⟩ := (passAgrees_rowCheck hphase).mp hpass
    exact (marginAgrees_pixel rfl).mpr (withinMargin_of_check hwriter hmargin)
  | encoded hphase hdelta u happ =>
    obtain ⟨-, -, -, hcol⟩ := (passAgrees_pixel hphase).mp hpass
    have hwithin : WithinMargin (pixelMovedIn s) s.col.toNat := (marginAgrees_pixel hphase).mp hs
    have hnext := hwithin.append happ (pixelBits_length_le hdelta)
    obtain ⟨a, n, p, k, m, rfl⟩ := onlyWriter_iff.mp happ.onlyWriter
    by_cases hlast : s.col.toNat + 1 < s.cols.toNat
    · rw [nextPosition_of_lt (by exact hlast)]
      refine (marginAgrees_pixel rfl).mpr ?_
      have hcol' : (s.col + 1#32).toNat = s.col.toNat + 1 := toNat_add_one_of_lt hcol
      exact hcol' ▸ hnext
    · rw [nextPosition_of_ge (by exact hlast)]
      refine (marginAgrees_rowCheck rfl).mpr (.inr ?_)
      have hcols : s.cols.toNat = s.col.toNat + 1 := by omega
      exact hcols ▸ hnext

theorem HostEffect.marginAgrees {s t : State} {a : Action} (h : HostEffect s a t) (hstatus : StatusAgrees s)
    (hs : MarginAgrees s) : MarginAgrees t := by
  cases h with
  | start v =>
    cases hphase : restPhase s.phase with
    | true => rw [startPass_rest hphase]; trivial
    | false => rw [startPass_busy hphase]; exact hs
  | reset => trivial
  | param reg v hrest =>
    obtain ⟨c, r, p, m, n, hset⟩ := exists_setParam_eq s v reg
    rw [hset]
    exact marginAgrees_of_rest (rest_of_not_busy hstatus hrest)
  | storeSrc off b => rw [hostStoreSrc_eq]; exact hs
  | storeDst off b =>
    obtain ⟨m, m', k, hstore⟩ := exists_hostStoreDst_eq s off b
    rw [hstore]
    exact hs
  | loadDst off =>
    obtain ⟨o, k, hload⟩ := exists_hostLoadDst_eq s off
    rw [hload]
    exact hs
  | dropped | readReg | loadSrc => exact hs

/-- Within the margin of a narrow row there is room for the word that the next bits would fill. -/
theorem WithinMargin.hasRoom {s : State} {n k : Nat} (h : WithinMargin s n) (halign : s.cursor.toNat % 4 = 0)
    (hfill : 32 ≤ s.nbits.toNat + k) (hk : k + 22 * n ≤ 22 * 381298) : HasRoom s := by
  obtain ⟨hsize, hbound⟩ := h
  unfold position marginBase Config.dstMargin at hbound
  unfold HasRoom
  omega

/-- The padded last word has room too. -/
theorem WithinMargin.hasRoom_of_held {s : State} {n : Nat} (h : WithinMargin s n) (halign : s.cursor.toNat % 4 = 0)
    (hheld : 0 < s.nbits.toNat) (hn : n ≤ 381298) : HasRoom s := by
  obtain ⟨hsize, hbound⟩ := h
  unfold position marginBase Config.dstMargin at hbound
  unfold HasRoom
  omega

theorem not_overruns {s : State} (hpass : PassAgrees s) (hs : MarginAgrees s) (hcols : s.cols.toNat ≤ 381298) :
    ¬ Overruns s := by
  rintro ⟨hroom, ⟨hphase, hdelta, hfill⟩ | ⟨hphase, hheld⟩⟩
  · obtain ⟨-, ⟨-, halign, -⟩, -, hcol⟩ := (passAgrees_pixel hphase).mp hpass
    have hlen := pixelBits_length_le hdelta
    exact hroom (((marginAgrees_pixel hphase).mp hs).hasRoom halign hfill (by omega))
  · obtain ⟨-, ⟨-, halign, -⟩, -⟩ := (passAgrees_finalFlush hphase).mp hpass
    rcases (marginAgrees_finalFlush hphase).mp hs with ⟨-, hempty⟩ | hwithin
    · exact hheld hempty
    · have hpos : 0 < s.nbits.toNat := Nat.pos_of_ne_zero fun h0 => hheld (BitVec.eq_of_toNat_eq h0)
      exact hroom (hwithin.hasRoom_of_held halign hpos hcols)

end Sys2Proof.Machine

namespace Sys2Proof.Proofs
open Sys2Proof Sys2Proof.Machine Sys2Proof.Claims

/-- Settles O45: the check starts a row at its base, and each pixel adds at most 22 bits. -/
theorem everyStepKeepsTheMargin : Obligations.EveryStepKeepsTheMargin := by
  unfold Obligations.EveryStepKeepsTheMargin
  rintro s t ⟨hagents, hstatus, -, hpass⟩ hmargin hstep
  have htaken : MarginAgrees (taken s) := hmargin
  exact step_keeps hagents htaken (fun _ hs heffect => heffect.marginAgrees hpass hs)
    (fun _ _ hs heffect => heffect.marginAgrees hstatus hs) hstep

/-- Settles O46: only the core's own step can fault, and inside the margin it has room. -/
theorem narrowFramesNeverOverrun : Obligations.NarrowFramesNeverOverrun := by
  unfold Obligations.NarrowFramesNeverOverrun
  rintro s ⟨hagents, -, -, hpass⟩ hmargin hcols hfault
  rcases step_cases hagents with ⟨-, hcore⟩ | ⟨a, t, -, hhost, -⟩
  · rcases coreStep_cases (taken s) with ⟨t, hnext, -⟩ | ⟨-, hover⟩
    · rw [hcore, hnext] at hfault
      cases hfault
    · exact not_overruns (s := taken s) hpass hmargin hcols hover
  · rw [hhost] at hfault
    cases hfault

end Sys2Proof.Proofs
end

section
/-! The predictor holds earlier samples (R157, R158): each seed the last sample of its position class, and each running register
the last sample of its parity in the row, so that the prediction is the neighbouring sample. -/

namespace Sys2Proof.Machine
open Sys2Proof.Claims

/-! ## The registers after a sample is moved in -/

theorem seedReg_sampleMovedIn (s : State) (row col : Nat) (pixel : U16) {p k : Nat} (hp : p < 2) (hk : k < 2) :
    seedReg (sampleMovedIn s row col pixel) p k = if row % 2 = p ∧ col = k then pixel else seedReg s p k := by
  interval_cases p <;> interval_cases k <;> rfl

theorem runningReg_sampleMovedIn (s : State) (row col : Nat) (pixel : U16) (c : Nat) :
    runningReg (sampleMovedIn s row col pixel) c = if col % 2 = c % 2 then pixel else runningReg s c := by
  rcases Nat.mod_two_eq_zero_or_one c with hc | hc <;>
  · rw [runningReg, runningReg, hc]
    rfl

/-! ## The samples of a source -/

section
variable {s t : State} (h : SameParameters s t)
include h

theorem placedSample_of_sameParameters (i : Nat) : placedSample t i = placedSample s i := by
  obtain ⟨⟨-, -, -, -, -, horder⟩, hsrc⟩ := h
  rw [placedSample, placedSample, srcByte, srcByte, srcByte, srcByte, hsrc, horder]

theorem lastSeed_of_sameParameters (p k n : Nat) : lastSeed t p k n = lastSeed s p k n := by
  have hplaced := placedSample_of_sameParameters h
  obtain ⟨⟨hcols, -, hpred, -⟩, -⟩ := h
  induction n with
  | zero => exact hpred
  | succ n ih => rw [lastSeed, lastSeed, ih, hplaced, hcols]

theorem neighbour_of_sameParameters (r c : Nat) : neighbour t r c = neighbour s r c := by
  have hplaced := placedSample_of_sameParameters h
  obtain ⟨⟨hcols, -, hpred, -⟩, -⟩ := h
  rw [neighbour, neighbour, hplaced, hplaced, hcols, hpred]

end

/-- The last sample of the row's own parity is two rows up (R158). -/
theorem lastSeed_mod_two (s : State) (k r : Nat) :
    lastSeed s (r % 2) k r = if r < 2 then s.startPred else placedSample s ((r - 2) * s.cols.toNat + k) := by
  match r with
  | 0 => rfl
  | 1 => rfl
  | r + 2 =>
    have hother : (r + 1) % 2 ≠ (r + 2) % 2 := by omega
    have hsame : r % 2 = (r + 2) % 2 := by omega
    rw [lastSeed, if_neg hother, lastSeed, if_pos hsame, if_neg (by omega), Nat.add_sub_cancel]

/-! ## The invariant -/

/-- The seeds after `n` rows, and after `n + 1` rows for the columns below `col`. -/
def SeedsAgree (s : State) (n col : Nat) : Prop :=
  ∀ p k : Nat, p < 2 → k < 2 → k < s.cols.toNat → seedReg s p k = lastSeed s p k (if k < col then n + 1 else n)

/-- The running registers after the columns below `col` of row `n`. -/
def RunningAgrees (s : State) (n col : Nat) : Prop :=
  ∀ c : Nat, c < col → col ≤ c + 2 → runningReg s c = placedSample s (n * s.cols.toNat + c)

theorem predictorAgrees_rowCheck {s : State} (h : s.phase = .rowCheck) :
    PredictorAgrees s ↔ (s.srcPast = [] → SeedsAgree s s.row.toNat 0) := by
  unfold PredictorAgrees
  rw [h]
  exact Iff.rfl

theorem predictorAgrees_pixel {s : State} (h : s.phase = .pixel) :
    PredictorAgrees s ↔ (s.srcPast = [] → SeedsAgree s s.row.toNat s.col.toNat ∧ RunningAgrees s s.row.toNat s.col.toNat) := by
  unfold PredictorAgrees
  rw [h]
  exact Iff.rfl

theorem predictorAgrees_of_rest {s : State} (h : restPhase s.phase = true) : PredictorAgrees s := by
  unfold PredictorAgrees
  rcases restPhase_iff.mp h with hp | hp | hp <;> rw [hp] <;> trivial

/-- Once the host has stored into `SRC` nothing is said (R240). -/
theorem predictorAgrees_of_disturbed {s : State} (h : s.srcPast ≠ []) : PredictorAgrees s := by
  cases hphase : s.phase with
  | rowCheck => exact (predictorAgrees_rowCheck hphase).mpr fun hpast => absurd hpast h
  | pixel => exact (predictorAgrees_pixel hphase).mpr fun hpast => absurd hpast h
  | idle | checkSrc | init | finalFlush | done | error =>
    unfold PredictorAgrees
    rw [hphase]
    trivial

theorem SeedsAgree.of_same {s t : State} {n col : Nat} (hpar : SameParameters s t)
    (hseed : ∀ p k, seedReg t p k = seedReg s p k) (h : SeedsAgree s n col) : SeedsAgree t n col := by
  intro p k hp hk hcols
  rw [hseed, lastSeed_of_sameParameters hpar]
  obtain ⟨⟨hsame, -⟩, -⟩ := hpar
  exact h p k hp hk (hsame ▸ hcols)

theorem RunningAgrees.of_same {s t : State} {n col : Nat} (hpar : SameParameters s t)
    (hrunning : ∀ c, runningReg t c = runningReg s c) (h : RunningAgrees s n col) : RunningAgrees t n col := by
  intro c hlo hhi
  rw [hrunning, placedSample_of_sameParameters hpar]
  obtain ⟨⟨hsame, -⟩, -⟩ := hpar
  rw [hsame]
  exact h c hlo hhi

/-- What the invariant speaks of: the parameters, the position, the record of stores and the six registers. -/
theorem predictorAgrees_of_same {s t : State} (hpar : SameParameters s t) (hphase : t.phase = s.phase)
    (hrow : t.row = s.row) (hcol : t.col = s.col) (hpast : t.srcPast = s.srcPast)
    (hseed : ∀ p k, seedReg t p k = seedReg s p k) (hrunning : ∀ c, runningReg t c = runningReg s c)
    (h : PredictorAgrees s) : PredictorAgrees t := by
  cases hp : s.phase with
  | rowCheck =>
    rw [predictorAgrees_rowCheck (hphase.trans hp), hpast, hrow]
    exact fun hnone => ((predictorAgrees_rowCheck hp).mp h hnone).of_same hpar hseed
  | pixel =>
    rw [predictorAgrees_pixel (hphase.trans hp), hpast, hrow, hcol]
    intro hnone
    obtain ⟨hseeds, hrun⟩ := (predictorAgrees_pixel hp).mp h hnone
    exact ⟨hseeds.of_same hpar hseed, hrun.of_same hpar hrunning⟩
  | idle | checkSrc | init | finalFlush | done | error =>
    unfold PredictorAgrees
    rw [hphase, hp]
    trivial

/-! ## One pixel -/

/-- The sample moved in at column `col` is the last of its position class. -/
theorem SeedsAgree.moveIn {s : State} {row col : Nat} (h : SeedsAgree s row col) :
    SeedsAgree (sampleMovedIn s row col (placedSample s (row * s.cols.toNat + col))) row (col + 1) := by
  intro p k hp hk hcols
  have hold := h p k hp hk hcols
  have hpar : SameParameters s (sampleMovedIn s row col (placedSample s (row * s.cols.toNat + col))) :=
    ⟨⟨rfl, rfl, rfl, rfl, rfl, rfl⟩, rfl⟩
  rw [seedReg_sampleMovedIn _ _ _ _ hp hk, lastSeed_of_sameParameters hpar]
  rcases lt_trichotomy k col with hlt | rfl | hgt
  · rw [if_neg (by omega), if_pos (by omega), hold, if_pos hlt]
  · rw [if_pos (Nat.lt_succ_self k), lastSeed, hold, if_neg (lt_irrefl k)]
    simp only [and_true]
  · rw [if_neg (by omega), if_neg (by omega), hold, if_neg (by omega)]

theorem RunningAgrees.moveIn {s : State} {row col : Nat} (h : RunningAgrees s row col) :
    RunningAgrees (sampleMovedIn s row col (placedSample s (row * s.cols.toNat + col))) row (col + 1) := by
  intro c hlo hhi
  have hpar : SameParameters s (sampleMovedIn s row col (placedSample s (row * s.cols.toNat + col))) :=
    ⟨⟨rfl, rfl, rfl, rfl, rfl, rfl⟩, rfl⟩
  have hcols : (sampleMovedIn s row col (placedSample s (row * s.cols.toNat + col))).cols = s.cols := rfl
  rw [runningReg_sampleMovedIn, placedSample_of_sameParameters hpar, hcols]
  rcases Nat.lt_succ_iff_lt_or_eq.mp hlo with hlt | rfl
  · rw [if_neg (by omega), h c hlt (by omega)]
  · rw [if_pos rfl]

/-- After the last column of a row the seeds are those of the rows up to it. -/
theorem SeedsAgree.row_done {s : State} {n col : Nat} (h : SeedsAgree s n col) (hcol : s.cols.toNat ≤ col) :
    SeedsAgree s (n + 1) 0 := by
  intro p k hp hk hcols
  rw [h p k hp hk hcols, if_pos (hcols.trans_le hcol), if_neg (Nat.not_lt_zero k)]

theorem pixelMovedIn_of_undisturbed {s : State} (h : s.srcPast = []) :
    pixelMovedIn s = sampleMovedIn s s.row.toNat s.col.toNat
      (placedSample s (s.row.toNat * s.cols.toNat + s.col.toNat)) := by
  rw [pixelMovedIn, sampleAt_of_undisturbed h]

theorem CoreEffect.predictorAgrees {s t : State} (h : CoreEffect s t) (hpass : PassAgrees s) (hs : PredictorAgrees s) :
    PredictorAgrees t := by
  cases h with
  | rest => exact hs
  | sourceTooSmall | marginTooSmall | outOfRange | sourceChecked | rowsDone | finishedEmpty | finishedPadded => trivial
  | initialised =>
    refine (predictorAgrees_rowCheck rfl).mpr fun _ p k hp hk _ => ?_
    interval_cases p <;> interval_cases k <;> rfl
  | emptyRow _ _ _ hcols =>
    refine (predictorAgrees_rowCheck rfl).mpr fun _ p k _ _ hk => ?_
    exact absurd hk (by rw [hcols]; exact Nat.not_lt_zero k)
  | rowEntered hphase =>
    refine (predictorAgrees_pixel rfl).mpr fun hpast => ⟨?_, fun c hc => absurd hc (Nat.not_lt_zero c)⟩
    exact SeedsAgree.of_same (s := s) ⟨⟨rfl, rfl, rfl, rfl, rfl, rfl⟩, rfl⟩ (fun _ _ => rfl)
      ((predictorAgrees_rowCheck hphase).mp hs hpast)
  | encoded hphase _ u happ =>
    obtain ⟨-, -, hrow, hcol⟩ := (passAgrees_pixel hphase).mp hpass
    obtain ⟨a, n, q, j, m, rfl⟩ := onlyWriter_iff.mp happ.onlyWriter
    by_cases hlast : s.col.toNat + 1 < s.cols.toNat
    · rw [nextPosition_of_lt (by exact hlast)]
      refine (predictorAgrees_pixel rfl).mpr fun hpast => ?_
      have hpast : s.srcPast = [] := hpast
      obtain ⟨hseeds, hrun⟩ := (predictorAgrees_pixel hphase).mp hs hpast
      have hseeds' := hseeds.moveIn
      have hrun' := hrun.moveIn
      rw [← pixelMovedIn_of_undisturbed hpast, ← toNat_add_one_of_lt hcol] at hseeds' hrun'
      exact ⟨SeedsAgree.of_same (s := pixelMovedIn s) ⟨⟨rfl, rfl, rfl, rfl, rfl, rfl⟩, rfl⟩ (fun _ _ => rfl) hseeds',
        RunningAgrees.of_same (s := pixelMovedIn s) ⟨⟨rfl, rfl, rfl, rfl, rfl, rfl⟩, rfl⟩ (fun _ => rfl) hrun'⟩
    · rw [nextPosition_of_ge (by exact hlast)]
      refine (predictorAgrees_rowCheck rfl).mpr fun hpast => ?_
      have hpast : s.srcPast = [] := hpast
      obtain ⟨hseeds, -⟩ := (predictorAgrees_pixel hphase).mp hs hpast
      have hseeds' := hseeds.moveIn.row_done (not_lt.mp hlast)
      rw [← pixelMovedIn_of_undisturbed hpast, ← toNat_add_one_of_lt hrow] at hseeds'
      exact SeedsAgree.of_same (s := pixelMovedIn s) ⟨⟨rfl, rfl, rfl, rfl, rfl, rfl⟩, rfl⟩ (fun _ _ => rfl) hseeds'

theorem HostEffect.predictorAgrees {s t : State} {a : Action} (h : HostEffect s a t) (hstatus : StatusAgrees s)
    (hs : PredictorAgrees s) : PredictorAgrees t := by
  cases h with
  | start v =>
    cases hphase : restPhase s.phase with
    | true => rw [startPass_rest hphase]; trivial
    | false => rw [startPass_busy hphase]; exact hs
  | reset => trivial
  | param reg v hrest =>
    obtain ⟨c, r, p, m, n, hset⟩ := exists_setParam_eq s v reg
    rw [hset]
    exact predictorAgrees_of_rest (rest_of_not_busy hstatus hrest)
  | storeSrc off b =>
    cases hbusy : isBusy s with
    | true =>
      rw [hostStoreSrc_busy off b (isBusy_iff.mp hbusy)]
      exact predictorAgrees_of_disturbed (List.cons_ne_nil _ _)
    | false =>
      rw [hostStoreSrc_eq]
      exact predictorAgrees_of_rest (rest_of_not_busy hstatus (isBusy_eq_false_iff.mp hbusy))
  | storeDst off b =>
    obtain ⟨m, m', k, hstore⟩ := exists_hostStoreDst_eq s off b
    rw [hstore]
    exact predictorAgrees_of_same (s := s) ⟨⟨rfl, rfl, rfl, rfl, rfl, rfl⟩, rfl⟩ rfl rfl rfl rfl (fun _ _ => rfl)
      (fun _ => rfl) hs
  | loadDst off =>
    obtain ⟨o, k, hload⟩ := exists_hostLoadDst_eq s off
    rw [hload]
    exact predictorAgrees_of_same (s := s) ⟨⟨rfl, rfl, rfl, rfl, rfl, rfl⟩, rfl⟩ rfl rfl rfl rfl (fun _ _ => rfl)
      (fun _ => rfl) hs
  | readReg | loadSrc =>
    exact predictorAgrees_of_same (s := s) ⟨⟨rfl, rfl, rfl, rfl, rfl, rfl⟩, rfl⟩ rfl rfl rfl rfl (fun _ _ => rfl)
      (fun _ => rfl) hs
  | dropped => exact hs

theorem predictorAgrees_taken {s : State} (h : PredictorAgrees s) : PredictorAgrees (taken s) :=
  predictorAgrees_of_same (s := s) ⟨⟨rfl, rfl, rfl, rfl, rfl, rfl⟩, rfl⟩ rfl rfl rfl rfl (fun _ _ => rfl) (fun _ => rfl) h

/-! ## The prediction -/

theorem seedReg_mod_two (s : State) (row k : Nat) : seedReg s (row % 2) k = seedReg s row k := by
  rw [seedReg, seedReg, Nat.mod_mod]

theorem runningReg_add_two (s : State) (c : Nat) : runningReg s (c + 2) = runningReg s c := by
  rw [runningReg, runningReg, Nat.add_mod_right]

/-- The register `predict` reads holds the neighbouring sample (R151, R158). -/
theorem predictAt_eq_neighbour {s : State} {row col : Nat} (hseeds : SeedsAgree s row col) (hrun : RunningAgrees s row col)
    (hcol : col < s.cols.toNat) : predictAt s row col = neighbour s row col := by
  rcases lt_or_ge col 2 with hk | hk
  · have hseed := hseeds (row % 2) col (Nat.mod_lt _ (by decide)) hk hcol
    rw [if_neg (lt_irrefl col), seedReg_mod_two, lastSeed_mod_two] at hseed
    rw [predictAt, if_pos (by omega), hseed, neighbour, if_pos hk]
  · obtain ⟨c, rfl⟩ := Nat.exists_eq_add_of_le' hk
    rw [predictAt, if_neg (by omega), runningReg_add_two, hrun c (by omega) le_rfl, neighbour, if_neg (by omega),
      Nat.add_sub_cancel]

end Sys2Proof.Machine

namespace Sys2Proof.Proofs
open Sys2Proof Sys2Proof.Machine Sys2Proof.Claims

/-- Settles O47: a pixel moves its sample into the registers of its position, and the register that `predict` reads was
written by the neighbouring sample. -/
theorem predictorHoldsTheNeighbours : Obligations.PredictorHoldsTheNeighbours := by
  unfold Obligations.PredictorHoldsTheNeighbours
  refine ⟨fun s t hinv hpred hstep => ?_, fun s hinv hpred hphase hpast => ?_⟩
  · obtain ⟨hagents, hstatus, -, hpass⟩ := hinv
    exact step_keeps hagents (predictorAgrees_taken hpred) (fun _ hs heffect => heffect.predictorAgrees hpass hs)
      (fun _ _ hs heffect => heffect.predictorAgrees hstatus hs) hstep
  · obtain ⟨-, -, -, hpass⟩ := hinv
    obtain ⟨-, -, -, hcol⟩ := (passAgrees_pixel hphase).mp hpass
    obtain ⟨hseeds, hrun⟩ := (predictorAgrees_pixel hphase).mp hpred hpast
    exact predictAt_eq_neighbour hseeds hrun hcol

end Sys2Proof.Proofs
end

section
/-! The pass as a function (R180) takes, pixel by pixel, the steps the sequencer takes (R171): a pixel of `encode` is PIXEL at
the same position, a row is ROW_CHECK and its pixels, and the end is FINAL_FLUSH. -/

namespace Sys2Proof.Machine
open Sys2Proof.Claims

/-! ## What the writer does not see -/

/-- An update of the state that the writer neither sees nor undoes. -/
structure WriterBlind (F : State → State) : Prop where
  acc : ∀ s, (F s).acc = s.acc
  nbits : ∀ s, (F s).nbits = s.nbits
  room : ∀ s, HasRoom (F s) ↔ HasRoom s
  setAcc : ∀ s a n, (F s).setAcc a n = F (s.setAcc a n)
  putWord : ∀ s w k, (F s).putWord w k = F (s.putWord w k)

section
variable {F : State → State} (hF : WriterBlind F)
include hF

theorem storeWord_of_writerBlind (w : U32) (k : Nat) (s : State) :
    storeWord w k (F s) = andThen (storeWord w k s) fun t => .next (F t) := by
  by_cases hroom : HasRoom s
  · rw [storeWord_of_room hroom, storeWord_of_room ((hF.room s).mpr hroom), hF.putWord, andThen_next]
  · rw [storeWord_of_no_room hroom, storeWord_of_no_room (mt (hF.room s).mp hroom), andThen_fault]

theorem appendBits_of_writerBlind {c : Nat} (hc : c < 32) (v : Nat) (s : State) :
    appendBits c v (F s) = andThen (appendBits c v s) fun t => .next (F t) := by
  rcases lt_or_ge (s.nbits.toNat + c) 32 with h | h
  · rw [appendBits_of_lt v h, appendBits_of_lt v (by rwa [hF.nbits]), hF.nbits, hF.acc, hF.setAcc, andThen_next]
  · obtain ⟨r, hr⟩ := Nat.exists_eq_add_of_le h
    rw [appendBits_of_eq_add v hc hr, appendBits_of_eq_add v hc (by rwa [hF.nbits]), hF.acc,
      storeWord_of_writerBlind hF, andThen_assoc, andThen_assoc]
    simp only [andThen_next, hF.setAcc]

theorem emitSymbol_of_writerBlind {c : Nat} (hc : c ≤ 14) (d : Nat) (s : State) :
    emitSymbol c d (F s) = andThen (emitSymbol c d s) fun t => .next (F t) := by
  obtain ⟨n, v, hn, -, hemit⟩ := exists_emitSymbol_eq_appendBits hc d
  rw [hemit, hemit, appendBits_of_writerBlind hF (by omega)]

theorem flush_of_writerBlind (s : State) : flush (F s) = andThen (flush s) fun t => .next (F t) := by
  by_cases hempty : s.nbits = 0#5
  · rw [flush_of_empty hempty, flush_of_empty ((hF.nbits s).trans hempty), andThen_next]
  · rw [flush_of_held hempty, flush_of_held (by rwa [hF.nbits]), hF.nbits, hF.acc, storeWord_of_writerBlind hF,
      andThen_assoc, andThen_assoc]
    simp only [andThen_next, hF.setAcc]

end

/-- The state in another phase. -/
def withPhase (p : Phase) (s : State) : State :=
  { s with phase := p }

theorem withPhase_writerBlind (p : Phase) : WriterBlind (withPhase p) :=
  ⟨fun _ => rfl, fun _ => rfl, fun _ => Iff.rfl, fun _ _ _ => rfl, fun _ _ _ => rfl⟩

/-! ## A pixel of `encode` -/

/-- What a loop of `encode` comes to, and then `f` where it has not ended the pass. -/
def endWith (x : Except Res State) (f : State → Res) : Res :=
  match x with
  | .ok t => f t
  | .error r => r

theorem endWith_goOn (r : Res) (f : State → Res) : endWith (goOn r) f = andThen r f := by
  cases r <;> rfl

/-- The state at a column of the row. -/
def atColumn (s : State) (col : Nat) : State :=
  { s with col := BitVec.ofNat 32 col }

theorem col_atColumn (s : State) {col : Nat} (h : col < 2 ^ 32) : (atColumn s col).col.toNat = col := by
  rw [atColumn, BitVec.toNat_ofNat, Nat.mod_eq_of_lt h]

section
variable {s : State} {row col : Nat} (hrow : s.row.toNat = row) (hcol : col < 2 ^ 32)
include hrow hcol

theorem pixelDelta_atColumn :
    pixelDelta (atColumn s col) = deltaAt s row col (sampleAt s (row * s.cols.toNat + col)) := by
  unfold pixelDelta
  rw [col_atColumn s hcol, ← hrow]
  rfl

theorem pixelMovedIn_atColumn :
    pixelMovedIn (atColumn s col) =
      observeUpdate (atColumn s col) row col (sampleAt s (row * s.cols.toNat + col)) := by
  unfold pixelMovedIn
  rw [col_atColumn s hcol, observeUpdate_eq, ← hrow]
  rfl

theorem encodePixel_of_le (h : (pixelDelta (atColumn s col)).natAbs ≤ 8191) :
    encodePixel row col s = goOn (emitSymbol (classOf (pixelDelta (atColumn s col)))
      (dataValue (pixelDelta (atColumn s col))) (pixelMovedIn (atColumn s col))) := by
  have hclass := classify_of_le h
  rw [pixelDelta_atColumn hrow hcol] at hclass ⊢
  rw [pixelMovedIn_atColumn hrow hcol]
  simp only [encodePixel, hclass]
  rfl

theorem encodePixel_of_gt (h : 8192 ≤ (pixelDelta (atColumn s col)).natAbs) :
    encodePixel row col s = .error (raiseError .noHuffmanEntry (pixelMovedIn (atColumn s col))) := by
  have hclass := classify_of_gt h
  rw [pixelDelta_atColumn hrow hcol] at hclass
  rw [pixelMovedIn_atColumn hrow hcol]
  simp only [encodePixel, hclass]
  rfl

/-- PIXEL at a position is the pixel of `encode` there, and then the next position. -/
theorem execPixel_eq_encodePixel :
    execPixel (withPhase .pixel (atColumn s col)) =
      endWith (encodePixel row col s) fun u => .next (nextPosition (withPhase .pixel u)) := by
  rcases le_or_gt (pixelDelta (atColumn s col)).natAbs 8191 with h | h
  · have hemit := emitSymbol_of_writerBlind (withPhase_writerBlind .pixel) (classOf_le_fourteen_iff.mpr h)
      (dataValue (pixelDelta (atColumn s col))) (pixelMovedIn (atColumn s col))
    rw [encodePixel_of_le hrow hcol h, endWith_goOn]
    refine (execPixel_of_le (s := withPhase .pixel (atColumn s col)) h).trans ?_
    refine (congrArg (andThen · _) hemit).trans ?_
    rw [andThen_assoc]
    rfl
  · rw [encodePixel_of_gt hrow hcol h]
    exact execPixel_of_gt (s := withPhase .pixel (atColumn s col)) h

/-- A pixel of `encode` appends its symbol, or it ends the pass with the abort or the fault. -/
theorem encodePixel_cases :
    (∃ u, encodePixel row col s = .ok u ∧ Appended (pixelMovedIn (atColumn s col)) u (pixelBits (atColumn s col))) ∨
      encodePixel row col s = .error (.next (aborted .noHuffmanEntry (pixelMovedIn (atColumn s col)))) ∨
      encodePixel row col s = .error (.fault .dstOverrun) := by
  rcases le_or_gt (pixelDelta (atColumn s col)).natAbs 8191 with h | h
  · have hclass := classOf_le_fourteen_iff.mpr h
    rw [encodePixel_of_le hrow hcol h]
    by_cases hfits : Fits (pixelMovedIn (atColumn s col)) (pixelBits (atColumn s col)).length
    · obtain ⟨u, hemit, happ⟩ := emitSymbol_appended (dataValue (pixelDelta (atColumn s col))) hclass hfits
      exact .inl ⟨u, by rw [hemit, goOn], happ⟩
    · obtain ⟨hfill, hroom⟩ := not_or.mp hfits
      exact .inr (.inr (by rw [emitSymbol_of_no_room _ hclass (not_lt.mp hfill) hroom, goOn]))
  · exact .inr (.inl (encodePixel_of_gt hrow hcol h))

end

/-! ## The sequencer reaches what a loop of `encode` comes to -/

/-- What the loops of `encode` keep of the state they start from. -/
def SamePass (s t : State) : Prop :=
  t.cols = s.cols ∧ t.rows = s.rows ∧ t.row = s.row ∧ t.pending = s.pending ∧ t.srcPast = s.srcPast

theorem SamePass.trans {s t u : State} (h : SamePass s t) (h' : SamePass t u) : SamePass s u := by
  obtain ⟨hcols, hrows, hrow, hpending, hpast⟩ := h
  obtain ⟨hcols', hrows', hrow', hpending', hpast'⟩ := h'
  exact ⟨hcols'.trans hcols, hrows'.trans hrows, hrow'.trans hrow, hpending'.trans hpending, hpast'.trans hpast⟩

theorem samePass_of_appended {s u : State} {col : Nat} {bits : List Bool}
    (h : Appended (pixelMovedIn (atColumn s col)) u bits) : SamePass s u ∧ u.col = BitVec.ofNat 32 col := by
  obtain ⟨a, n, p, k, m, rfl⟩ := onlyWriter_iff.mp h.onlyWriter
  exact ⟨⟨rfl, rfl, rfl, rfl, rfl⟩, rfl⟩

/-- From `q` the sequencer comes to what `x` is: to `after t` in exactly `n` steps where the loop goes on with `t`, and to
the outcome within `n` steps where the loop ends the pass. -/
def Simulates (n : Nat) (q : State) (x : Except Res State) (after : State → State) : Prop :=
  match x with
  | .ok t => runSteps n q = .next (after t)
  | .error r => ∃ k ≤ n, runSteps k q = r

theorem Simulates.cons {n : Nat} {q q' : State} {x : Except Res State} {after : State → State} (hstep : step q = .next q')
    (h : Simulates n q' x after) : Simulates (n + 1) q x after := by
  cases x with
  | ok t => exact (runSteps_succ_of_step hstep n).trans h
  | error r =>
    obtain ⟨k, hk, hrun⟩ := h
    exact ⟨k + 1, Nat.succ_le_succ hk, (runSteps_succ_of_step hstep k).trans hrun⟩

/-- The first step ends the pass. -/
theorem simulates_of_step {n : Nat} {q : State} {r : Res} {after : State → State} (hstep : step q = r) :
    Simulates (n + 1) q (.error r) after := by
  refine ⟨1, Nat.succ_le_succ (Nat.zero_le n), ?_⟩
  rw [runSteps, hstep]
  cases r <;> rfl

theorem runSteps_add (m n : Nat) (s : State) : runSteps (m + n) s = andThen (runSteps m s) (runSteps n) := by
  induction m generalizing s with
  | zero => rw [Nat.zero_add, runSteps, andThen_next]
  | succ m ih =>
    rw [Nat.succ_add, runSteps, runSteps, andThen_assoc]
    exact congrArg _ (funext ih)

theorem Simulates.of_error {n m : Nat} {q : State} {r : Res} {f g : State → State} (h : Simulates n q (.error r) f)
    (hle : n ≤ m) : Simulates m q (.error r) g := by
  obtain ⟨k, hk, hrun⟩ := h
  exact ⟨k, hk.trans hle, hrun⟩

theorem Simulates.append {n m : Nat} {q t : State} {x : Except Res State} {f g : State → State}
    (h : runSteps n q = .next (f t)) (hx : Simulates m (f t) x g) : Simulates (n + m) q x g := by
  cases x with
  | ok u => exact (runSteps_add n m q).trans (by rw [h]; exact hx)
  | error r =>
    obtain ⟨k, hk, hrun⟩ := hx
    exact ⟨n + k, Nat.add_le_add_left hk n, (runSteps_add n k q).trans (by rw [h]; exact hrun)⟩

/-- The head of the next row. -/
def nextRow (s : State) : State :=
  { s with row := s.row + 1#32, phase := .rowCheck }

theorem nextPosition_eq_nextRow {s u : State} {col : Nat} (hpass : SamePass s u) (hcol : u.col = BitVec.ofNat 32 col)
    (hend : col + 1 = s.cols.toNat) : nextPosition (withPhase .pixel u) = nextRow u := by
  obtain ⟨hcols, -⟩ := hpass
  have hlt : col < 2 ^ 32 := by have := s.cols.isLt; omega
  have hnat : u.col.toNat = col := by rw [hcol, BitVec.toNat_ofNat, Nat.mod_eq_of_lt hlt]
  exact nextPosition_of_ge (s := withPhase .pixel u) (show ¬ u.col.toNat + 1 < u.cols.toNat by rw [hnat, hcols]; omega)

theorem nextPosition_eq_atColumn {s u : State} {col : Nat} (hpass : SamePass s u) (hcol : u.col = BitVec.ofNat 32 col)
    (hmore : col + 1 < s.cols.toNat) : nextPosition (withPhase .pixel u) = withPhase .pixel (atColumn u (col + 1)) := by
  obtain ⟨hcols, -⟩ := hpass
  have hlt : col < 2 ^ 32 := by have := s.cols.isLt; omega
  have hnat : u.col.toNat = col := by rw [hcol, BitVec.toNat_ofNat, Nat.mod_eq_of_lt hlt]
  have hnext : u.col + 1#32 = BitVec.ofNat 32 (col + 1) := by rw [hcol, BitVec.ofNat_add]
  refine (nextPosition_of_lt (s := withPhase .pixel u)
    (show u.col.toNat + 1 < u.cols.toNat by rw [hnat, hcols]; exact hmore)).trans ?_
  rw [atColumn, ← hnext]
  rfl

/-- The column loop is PIXEL after PIXEL up to the end of the row. -/
theorem simulates_encodeColumns {row : Nat} (n : Nat) : ∀ (s : State) (col : Nat), s.row.toNat = row → s.pending = [] →
    col + (n + 1) = s.cols.toNat →
    Simulates (n + 1) (withPhase .pixel (atColumn s col)) (encodeColumns row (n + 1) col s) nextRow := by
  induction n with
  | zero =>
    intro s col hrow hpending hcols
    have hlt : col < 2 ^ 32 := by have := s.cols.isLt; omega
    have hstep := (step_pixel (s := withPhase .pixel (atColumn s col)) hpending rfl).trans
      (execPixel_eq_encodePixel hrow hlt)
    rw [encodeColumns]
    rcases encodePixel_cases hrow hlt with ⟨u, hu, happ⟩ | herr | herr
    · obtain ⟨hpass, hcol⟩ := samePass_of_appended happ
      rw [hu, endWith, nextPosition_eq_nextRow hpass hcol hcols] at hstep
      rw [hu]
      exact Simulates.cons hstep rfl
    · rw [herr] at hstep ⊢
      exact simulates_of_step hstep
    · rw [herr] at hstep ⊢
      exact simulates_of_step hstep
  | succ n ih =>
    intro s col hrow hpending hcols
    have hlt : col < 2 ^ 32 := by have := s.cols.isLt; omega
    have hstep := (step_pixel (s := withPhase .pixel (atColumn s col)) hpending rfl).trans
      (execPixel_eq_encodePixel hrow hlt)
    rw [encodeColumns]
    rcases encodePixel_cases hrow hlt with ⟨u, hu, happ⟩ | herr | herr
    · obtain ⟨hpass, hcol⟩ := samePass_of_appended happ
      rw [hu, endWith, nextPosition_eq_atColumn hpass hcol (by omega)] at hstep
      obtain ⟨hcols', -, hrow', hpending', -⟩ := hpass
      rw [hu]
      exact (ih u (col + 1) (hrow' ▸ hrow) (hpending'.trans hpending) (by rw [hcols']; omega)).cons hstep
    · rw [herr] at hstep ⊢
      exact simulates_of_step hstep
    · rw [herr] at hstep ⊢
      exact simulates_of_step hstep

theorem samePass_encodeColumns {row : Nat} (n : Nat) : ∀ {s t : State} {col : Nat}, s.row.toNat = row →
    col + n ≤ 2 ^ 32 → encodeColumns row n col s = .ok t → SamePass s t := by
  induction n with
  | zero =>
    rintro s t col - - h
    cases h
    exact ⟨rfl, rfl, rfl, rfl, rfl⟩
  | succ n ih =>
    intro s t col hrow hcol h
    rw [encodeColumns] at h
    rcases encodePixel_cases hrow (by omega : col < 2 ^ 32) with ⟨u, hu, happ⟩ | herr | herr
    · obtain ⟨hpass, -⟩ := samePass_of_appended happ
      obtain ⟨-, -, hrow', -⟩ := id hpass
      rw [hu] at h
      exact hpass.trans (ih (hrow' ▸ hrow) (by omega) h)
    · rw [herr] at h
      cases h
    · rw [herr] at h
      cases h

/-! ## A row and the rows of `encode` -/

theorem encodeRow_of_margin {row : Nat} {s : State} (h : s.dstSize.toNat < s.count.toNat + 1048576) :
    encodeRow row s = .error (raiseError .outputBufferTooSmall s) := if_pos (marginFails_iff.mpr h)

theorem encodeRow_of_le {row : Nat} {s : State} (h : s.count.toNat + 1048576 ≤ s.dstSize.toNat) :
    encodeRow row s =
      match encodeColumns row s.cols.toNat 0 s with
      | .ok t => .ok { t with row := BitVec.ofNat 32 (row + 1) }
      | .error r => .error r := if_neg (mt marginFails_iff.mp (not_lt.mpr h))

/-- What a row of `encode` that goes on leaves (R175, R177). -/
theorem samePass_encodeRow {row : Nat} {s t : State} (hrow : s.row.toNat = row) (h : encodeRow row s = .ok t) :
    t.cols = s.cols ∧ t.rows = s.rows ∧ t.row = BitVec.ofNat 32 (row + 1) ∧ t.pending = s.pending ∧
      t.srcPast = s.srcPast := by
  rcases lt_or_ge s.dstSize.toNat (s.count.toNat + 1048576) with hm | hm
  · rw [encodeRow_of_margin hm] at h
    cases h
  · rw [encodeRow_of_le hm] at h
    cases hcolumns : encodeColumns row s.cols.toNat 0 s with
    | ok u =>
      have hlt := s.cols.isLt
      obtain ⟨hcols, hrows, -, hpending, hpast⟩ := samePass_encodeColumns s.cols.toNat hrow (by omega) hcolumns
      rw [hcolumns] at h
      cases h
      exact ⟨hcols, hrows, rfl, hpending, hpast⟩
    | error r =>
      rw [hcolumns] at h
      cases h

theorem add_one_eq_ofNat {x : U32} {n : Nat} (h : x.toNat = n) : x + 1#32 = BitVec.ofNat 32 (n + 1) := by
  rw [BitVec.ofNat_add, ← h, BitVec.ofNat_toNat, BitVec.setWidth_eq]

/-- A row is ROW_CHECK and its pixels. -/
theorem simulates_encodeRow {row : Nat} {s : State} (hrow : s.row.toNat = row) (hpending : s.pending = [])
    (hlt : row < s.rows.toNat) :
    Simulates (s.cols.toNat + 1) (withPhase .rowCheck s) (encodeRow row s) (withPhase .rowCheck) := by
  have hcheck := step_rowCheck (s := withPhase .rowCheck s) hpending rfl
  have hne : s.row ≠ s.rows := fun h => by rw [← h, hrow] at hlt; exact lt_irrefl row hlt
  rcases lt_or_ge s.dstSize.toNat (s.count.toNat + 1048576) with hm | hm
  · rw [encodeRow_of_margin hm]
    exact simulates_of_step (hcheck.trans (execRowCheck_of_margin (s := withPhase .rowCheck s) hne hm))
  · rw [encodeRow_of_le hm]
    match hcols : s.cols.toNat with
    | 0 =>
      have hzero : s.cols = 0#32 := BitVec.eq_of_toNat_eq hcols
      have hstep := hcheck.trans (execRowCheck_of_no_column (s := withPhase .rowCheck s) hne hm hzero)
      refine (runSteps_succ_of_step hstep 0).trans ?_
      rw [← add_one_eq_ofNat hrow]
      rfl
    | n + 1 =>
      have hpos : s.cols ≠ 0#32 := fun h => by rw [h] at hcols; cases hcols
      have hstep := hcheck.trans (execRowCheck_of_column (s := withPhase .rowCheck s) hne hm hpos)
      have hsim := simulates_encodeColumns n s 0 hrow hpending (by omega)
      refine Simulates.cons hstep ?_
      cases hcolumns : encodeColumns row (n + 1) 0 s with
      | ok t =>
        rw [hcolumns] at hsim
        refine hsim.trans ?_
        have hsize := s.cols.isLt
        obtain ⟨-, -, hrow', -⟩ := samePass_encodeColumns (n + 1) hrow (by omega) hcolumns
        rw [nextRow, hrow', add_one_eq_ofNat hrow]
        rfl
      | error r =>
        rw [hcolumns] at hsim
        exact hsim

/-- The row loop over any row body. The equations of `encodeRows` are taken from it: checked over `encodeRow` itself they
make the kernel evaluate the margin of the check, a number of 1048576 steps. -/
def rowsBy (body : Nat → State → Except Res State) : Nat → Nat → State → Except Res State
  | 0, _, s => .ok s
  | n + 1, row, s =>
    match body row s with
    | .ok t => rowsBy body n (row + 1) t
    | .error r => .error r

theorem encodeRows_eq_rowsBy : encodeRows = rowsBy encodeRow := by
  delta encodeRows encodeRows._f rowsBy rowsBy._f
  rfl

theorem rowsBy_succ (body : Nat → State → Except Res State) (n row : Nat) (s : State) :
    rowsBy body (n + 1) row s =
      match body row s with
      | .ok t => rowsBy body n (row + 1) t
      | .error r => .error r := rfl

theorem encodeRows_succ (n row : Nat) (s : State) :
    encodeRows (n + 1) row s =
      match encodeRow row s with
      | .ok t => encodeRows n (row + 1) t
      | .error r => .error r := by
  rw [encodeRows_eq_rowsBy, rowsBy_succ]

/-- The row loop is the rows one after another. -/
theorem simulates_encodeRows (n : Nat) : ∀ (s : State) (row : Nat), s.row.toNat = row → s.pending = [] →
    row + n = s.rows.toNat →
    Simulates (n * (s.cols.toNat + 1)) (withPhase .rowCheck s) (encodeRows n row s) (withPhase .rowCheck) := by
  induction n with
  | zero =>
    intro s row _ _ _
    rw [Nat.zero_mul]
    rfl
  | succ n ih =>
    intro s row hrow hpending hrows
    have hsim := simulates_encodeRow hrow hpending (by omega)
    have hcount : (n + 1) * (s.cols.toNat + 1) = (s.cols.toNat + 1) + n * (s.cols.toNat + 1) := by
      rw [Nat.succ_mul, Nat.add_comm]
    rw [encodeRows_succ, hcount]
    cases hx : encodeRow row s with
    | ok t =>
      obtain ⟨hcols, hrows', hrow', hpending', -⟩ := samePass_encodeRow hrow hx
      have hnext : t.row.toNat = row + 1 := by
        have := s.rows.isLt
        rw [hrow', BitVec.toNat_ofNat, Nat.mod_eq_of_lt (by omega)]
      rw [hx] at hsim
      have hrest := ih t (row + 1) hnext (hpending'.trans hpending) (by rw [hrows']; omega)
      rw [hcols] at hrest
      exact Simulates.append hsim hrest
    | error r =>
      rw [hx] at hsim
      exact hsim.of_error (Nat.le_add_right _ _)

theorem samePass_encodeRows (n : Nat) : ∀ {s t : State} {row : Nat}, s.row.toNat = row → row + n < 2 ^ 32 →
    encodeRows n row s = .ok t → t.rows = s.rows ∧ t.row.toNat = row + n ∧ t.pending = s.pending := by
  induction n with
  | zero =>
    rintro s t row hrow - h
    cases h
    exact ⟨rfl, hrow, rfl⟩
  | succ n ih =>
    intro s t row hrow hlt h
    rw [encodeRows_succ] at h
    cases hx : encodeRow row s with
    | ok u =>
      obtain ⟨-, hrows, hrow', hpending, -⟩ := samePass_encodeRow hrow hx
      have hnext : u.row.toNat = row + 1 := by rw [hrow', BitVec.toNat_ofNat, Nat.mod_eq_of_lt (by omega)]
      rw [hx] at h
      obtain ⟨hrows', hrow'', hpending'⟩ := ih hnext (by omega) h
      exact ⟨hrows'.trans hrows, hrow''.trans (by omega), hpending'.trans hpending⟩
    | error r =>
      rw [hx] at h
      cases h

end Sys2Proof.Machine
end

section
/-! The pass from its check to its report (R180), as the sequencer takes it step by step (R171) and as its checks end it
(R207). -/

namespace Sys2Proof.Machine
open Sys2Proof.Claims

/-- The state in which START begins a pass (R170). -/
def begun (s : State) : State :=
  { s with
    statusState := 1#2, statusErr := 0#2, result := 0#64, phase := .checkSrc, srcPast := [], dstBefore := s.dst }

theorem startPass_eq_begun {s : State} (h : restPhase s.phase = true) : startPass s = begun s := startPass_rest h

/-- The end of a pass whose rows are done (R179). -/
def finish (s : State) : Res :=
  andThen (flush s) fun u => .next (complete u)

/-- The rows of the pass from the state INIT leaves, and its end. -/
def passFrom (s : State) : Res :=
  endWith (encodeRows s.rows.toNat 0 s) finish

theorem encodePass_of_gt {s : State} (h : s.srcSize.toNat < sourceNeed s) :
    encodePass s = .next (aborted .sourceBufferTooSmall s) := by
  rw [encodePass, if_pos h, raiseError_eq_aborted]

theorem encodePass_of_le {s : State} (h : sourceNeed s ≤ s.srcSize.toNat) : encodePass s = passFrom (initRegs s) := by
  have hrows : (initRegs s).rows = s.rows := rfl
  rw [encodePass, if_neg (not_lt.mpr h), passFrom, hrows]
  cases encodeRows s.rows.toNat 0 (initRegs s) with
  | ok t => rw [endWith, finish]
  | error r => rw [endWith]

theorem exec_encode_of_rest {s : State} (h : restPhase s.phase = true) : exec .encode s = encodePass (begun s) := by
  rw [exec, execEncode, if_pos h, startPass_eq_begun h]

theorem exec_encode_of_busy {s : State} (h : restPhase s.phase = false) : exec .encode s = .next s := by
  rw [exec, execEncode, h]
  rfl

/-! ## Step by step -/

theorem runSteps_one (s : State) : runSteps 1 s = step s := by
  rw [runSteps]
  cases step s <;> rfl

theorem execFinalFlush_eq_finish (s : State) : execFinalFlush (withPhase .finalFlush s) = finish s := by
  have hflush := flush_of_writerBlind (withPhase_writerBlind .finalFlush) s
  rw [execFinalFlush, hflush, andThen_assoc, finish]
  rfl

/-- Behind the last row the sequencer goes to FINAL_FLUSH and ends the pass. -/
theorem runSteps_two_of_rows_done {s : State} (hpending : s.pending = []) (hrow : s.row = s.rows) :
    runSteps 2 (withPhase .rowCheck s) = finish s := by
  have hcheck : step (withPhase .rowCheck s) = .next (withPhase .finalFlush s) :=
    (step_rowCheck (s := withPhase .rowCheck s) hpending rfl).trans (execRowCheck_of_end hrow)
  have hflush : step (withPhase .finalFlush s) = finish s :=
    (step_finalFlush (s := withPhase .finalFlush s) hpending rfl).trans (execFinalFlush_eq_finish s)
  rw [runSteps_succ_of_step hcheck, runSteps_one, hflush]

/-- From INIT's state the sequencer comes to what the rows and the end come to. -/
theorem exists_runSteps_eq_passFrom {s : State} (hpending : s.pending = []) (hrow : s.row = 0#32) :
    ∃ n ≤ s.rows.toNat * (s.cols.toNat + 1) + 2, runSteps n (withPhase .rowCheck s) = passFrom s := by
  have hzero : s.row.toNat = 0 := by rw [hrow]; rfl
  have hsim := simulates_encodeRows s.rows.toNat s 0 hzero hpending (Nat.zero_add _)
  unfold passFrom
  cases hrows : encodeRows s.rows.toNat 0 s with
  | ok t =>
    have hsize := s.rows.isLt
    obtain ⟨hrows', hrow', hpending'⟩ := samePass_encodeRows s.rows.toNat hzero (by omega) hrows
    have hend : t.row = t.rows := BitVec.eq_of_toNat_eq (by rw [hrow', hrows', Nat.zero_add])
    rw [hrows] at hsim
    have hrun : runSteps (s.rows.toNat * (s.cols.toNat + 1)) (withPhase .rowCheck s) = .next (withPhase .rowCheck t) := hsim
    refine ⟨_, le_rfl, ?_⟩
    rw [runSteps_add, hrun, andThen_next, runSteps_two_of_rows_done (hpending'.trans hpending) hend, endWith]
  | error r =>
    rw [hrows] at hsim
    obtain ⟨k, hk, hrun⟩ := hsim
    exact ⟨k, Nat.le_add_right_of_le hk, hrun⟩

theorem exists_runSteps_eq_encodePass {s : State} (hpending : s.pending = []) (hphase : s.phase = .checkSrc) :
    ∃ n ≤ s.rows.toNat * s.cols.toNat + s.rows.toNat + 4, runSteps n s = encodePass s := by
  rcases lt_or_ge s.srcSize.toNat (sourceNeed s) with h | h
  · refine ⟨1, by omega, ?_⟩
    rw [runSteps_one, step_checkSrc hpending hphase, execCheckSrc_of_gt h, encodePass_of_gt h, raiseError_eq_aborted]
  · have hcheck : step s = .next (withPhase .init s) := (step_checkSrc hpending hphase).trans (execCheckSrc_of_le h)
    have hinit : step (withPhase .init s) = .next (withPhase .rowCheck (initRegs s)) := step_init hpending rfl
    obtain ⟨n, hn, hrun⟩ := exists_runSteps_eq_passFrom (s := initRegs s) hpending rfl
    have hn : n ≤ s.rows.toNat * (s.cols.toNat + 1) + 2 := hn
    refine ⟨n + 2, by rw [Nat.mul_succ] at hn; omega, ?_⟩
    rw [runSteps_succ_of_step hcheck, runSteps_succ_of_step hinit, hrun, encodePass_of_le h]

/-! ## The checks -/

theorem toNat_statusWord_aborted (e : ErrKind) (s : State) :
    (statusWord (aborted e s)).toNat = 3 + 4 * (errField e).toNat := toNat_statusWord _

/-- The first row's margin check, over an empty count (R175). -/
theorem passFrom_of_margin {s : State} (hrows : s.rows ≠ 0#32) (hcount : s.count = 0#64) (h : s.dstSize.toNat < 1048576) :
    passFrom s = .next (aborted .outputBufferTooSmall s) := by
  have hmargin : s.dstSize.toNat < s.count.toNat + 1048576 := by rw [hcount]; simpa using h
  obtain ⟨n, hn⟩ := Nat.exists_eq_add_one_of_ne_zero (mt (BitVec.eq_of_toNat_eq (y := 0#32)) hrows)
  rw [passFrom, hn, encodeRows_succ, encodeRow_of_margin hmargin, endWith, raiseError_eq_aborted]

end Sys2Proof.Machine

namespace Sys2Proof.Proofs
open Sys2Proof Sys2Proof.Machine Sys2Proof.Claims

/-- Settles O51: the loops are simulated step by step, from START to the report. -/
theorem encodeIsTheSequencersPass : Obligations.EncodeIsTheSequencersPass := by
  unfold Obligations.EncodeIsTheSequencersPass
  intro s hpending hrest
  rw [exec_encode_of_rest hrest, startPass_eq_begun hrest]
  exact exists_runSteps_eq_encodePass (s := begun s) hpending rfl

/-- Settles O54: the source check is first, and the first row's margin check comes before any sample. -/
theorem encodeErrorsComeInStepOrder : Obligations.EncodeErrorsComeInStepOrder := by
  unfold Obligations.EncodeErrorsComeInStepOrder
  intro s hrest
  rw [exec_encode_of_rest hrest]
  exact ⟨fun hsrc => ⟨_, encodePass_of_gt (s := begun s) hsrc,
      BitVec.eq_of_toNat_eq (toNat_statusWord_aborted .sourceBufferTooSmall _), rfl, rfl⟩,
    fun hsrc hrows hdst => ⟨_, (encodePass_of_le (s := begun s) hsrc).trans
      (passFrom_of_margin (s := initRegs (begun s)) hrows rfl hdst),
      BitVec.eq_of_toNat_eq (toNat_statusWord_aborted .outputBufferTooSmall _), rfl, rfl⟩⟩

end Sys2Proof.Proofs
end

section
/-! What a pass does not look at: the returned value, the counter of free values and the actions to come. So a pass depends
on its inputs alone (R13, R14), and is the sequencer's pass with nothing pending. -/

namespace Sys2Proof.Machine
open Sys2Proof.Claims

/-! ## The fields outside the pass -/

/-- The state with other values in the fields that no part of a pass looks at. -/
def withContext (o : Out) (k : Nat) (l : List Action) (s : State) : State :=
  { s with out := o, freeCtr := k, pending := l }

theorem withContext_writerBlind (o : Out) (k : Nat) (l : List Action) : WriterBlind (withContext o k l) :=
  ⟨fun _ => rfl, fun _ => rfl, fun _ => Iff.rfl, fun _ _ _ => rfl, fun _ _ _ => rfl⟩

/-- What a loop of `encode` comes to, with an update of the state it goes on with or ends in. -/
def mapState (F : State → State) (x : Except Res State) : Except Res State :=
  match x with
  | .ok t => .ok (F t)
  | .error r => .error (andThen r fun t => .next (F t))

theorem goOn_andThen (r : Res) (F : State → State) : goOn (andThen r fun t => .next (F t)) = mapState F (goOn r) := by
  cases r <;> rfl

section
variable (o : Out) (k : Nat) (l : List Action)

theorem sampleAt_withContext (s : State) (i : Nat) (hpast : s.srcPast = []) :
    sampleAt (withContext o k l s) i = sampleAt s i := by
  rw [sampleAt_of_undisturbed hpast, sampleAt_of_undisturbed (s := withContext o k l s) hpast]
  rfl

theorem pixelDelta_withContext {s : State} (hpast : s.srcPast = []) : pixelDelta (withContext o k l s) = pixelDelta s := by
  unfold pixelDelta
  rw [sampleAt_withContext o k l _ _ hpast]
  rfl

theorem pixelMovedIn_withContext {s : State} (hpast : s.srcPast = []) :
    pixelMovedIn (withContext o k l s) = withContext o k l (pixelMovedIn s) := by
  unfold pixelMovedIn
  rw [sampleAt_withContext o k l _ _ hpast]
  rfl

theorem encodePixel_withContext {s : State} {row col : Nat} (hrow : s.row.toNat = row) (hcol : col < 2 ^ 32)
    (hpast : s.srcPast = []) :
    encodePixel row col (withContext o k l s) = mapState (withContext o k l) (encodePixel row col s) := by
  have hdelta := pixelDelta_withContext o k l (s := atColumn s col) hpast
  have hmoved := pixelMovedIn_withContext o k l (s := atColumn s col) hpast
  have hat : atColumn (withContext o k l s) col = withContext o k l (atColumn s col) := rfl
  rcases le_or_gt (pixelDelta (atColumn s col)).natAbs 8191 with h | h
  · rw [encodePixel_of_le (s := withContext o k l s) hrow hcol (by rwa [hat, hdelta]), encodePixel_of_le hrow hcol h, hat,
      hdelta, hmoved,
      emitSymbol_of_writerBlind (withContext_writerBlind o k l) (classOf_le_fourteen_iff.mpr h), goOn_andThen]
  · rw [encodePixel_of_gt (s := withContext o k l s) hrow hcol (by rwa [hat, hdelta]), encodePixel_of_gt hrow hcol h, hat,
      hmoved]
    rfl

theorem encodeColumns_withContext {row : Nat} (n : Nat) : ∀ {s : State} {col : Nat}, s.row.toNat = row →
    col + n ≤ 2 ^ 32 → s.srcPast = [] →
    encodeColumns row n col (withContext o k l s) = mapState (withContext o k l) (encodeColumns row n col s) := by
  induction n with
  | zero => exact fun _ _ _ => rfl
  | succ n ih =>
    intro s col hrow hcol hpast
    rw [encodeColumns, encodeColumns, encodePixel_withContext o k l hrow (by omega) hpast]
    rcases encodePixel_cases hrow (by omega : col < 2 ^ 32) with ⟨u, hu, happ⟩ | herr | herr
    · obtain ⟨⟨-, -, hrow', -, hpast'⟩, -⟩ := samePass_of_appended happ
      rw [hu]
      exact ih (hrow' ▸ hrow) (by omega) (hpast'.trans hpast)
    · rw [herr]
      rfl
    · rw [herr]
      rfl

theorem encodeRow_withContext {row : Nat} {s : State} (hrow : s.row.toNat = row) (hpast : s.srcPast = []) :
    encodeRow row (withContext o k l s) = mapState (withContext o k l) (encodeRow row s) := by
  rcases lt_or_ge s.dstSize.toNat (s.count.toNat + 1048576) with hm | hm
  · rw [encodeRow_of_margin hm, encodeRow_of_margin (s := withContext o k l s) hm]
    rfl
  · have hsize := s.cols.isLt
    have hcolumns := encodeColumns_withContext o k l s.cols.toNat (s := s) (col := 0) hrow (by omega) hpast
    have hcols : (withContext o k l s).cols = s.cols := rfl
    rw [encodeRow_of_le hm, encodeRow_of_le (s := withContext o k l s) hm, hcols, hcolumns]
    cases encodeColumns row s.cols.toNat 0 s <;> rfl

theorem encodeRows_withContext (n : Nat) : ∀ {s : State} {row : Nat}, s.row.toNat = row → row + n < 2 ^ 32 →
    s.srcPast = [] → encodeRows n row (withContext o k l s) = mapState (withContext o k l) (encodeRows n row s) := by
  induction n with
  | zero => exact fun _ _ _ => rfl
  | succ n ih =>
    intro s row hrow hlt hpast
    rw [encodeRows_succ, encodeRows_succ, encodeRow_withContext o k l hrow hpast]
    cases hx : encodeRow row s with
    | ok u =>
      obtain ⟨-, -, hrow', -, hpast'⟩ := samePass_encodeRow hrow hx
      exact ih (by rw [hrow', BitVec.toNat_ofNat, Nat.mod_eq_of_lt (by omega)]) (by omega) (hpast'.trans hpast)
    | error r => rfl

theorem finish_withContext (s : State) :
    finish (withContext o k l s) = andThen (finish s) fun t => .next (withContext o k l t) := by
  rw [finish, flush_of_writerBlind (withContext_writerBlind o k l), finish, andThen_assoc, andThen_assoc]
  rfl

theorem passFrom_withContext {s : State} (hrow : s.row = 0#32) (hpast : s.srcPast = []) :
    passFrom (withContext o k l s) = andThen (passFrom s) fun t => .next (withContext o k l t) := by
  have hsize := s.rows.isLt
  have hrows := encodeRows_withContext o k l s.rows.toNat (s := s) (row := 0) (by rw [hrow]; rfl) (by omega) hpast
  have hsame : (withContext o k l s).rows = s.rows := rfl
  rw [passFrom, hsame, hrows, passFrom]
  cases encodeRows s.rows.toNat 0 s with
  | ok t => exact finish_withContext o k l t
  | error r => rfl

theorem encodePass_withContext {s : State} (hpast : s.srcPast = []) :
    encodePass (withContext o k l s) = andThen (encodePass s) fun t => .next (withContext o k l t) := by
  rcases lt_or_ge s.srcSize.toNat (sourceNeed s) with h | h
  · rw [encodePass_of_gt h, encodePass_of_gt (s := withContext o k l s) h]
    rfl
  · rw [encodePass_of_le h, encodePass_of_le (s := withContext o k l s) h]
    exact passFrom_withContext o k l (s := initRegs s) rfl hpast

end

/-! ## How a pass ends -/

/-- A pass ends at rest, or it comes to a word write that has no room (R71, R232). -/
def EndsPass (r : Res) : Prop :=
  (∃ t, r = .next t ∧ (t.phase = .done ∨ t.phase = .error)) ∨ r = .fault .dstOverrun

theorem endsPass_aborted (e : ErrKind) (s : State) : EndsPass (.next (aborted e s)) := .inl ⟨_, rfl, .inr rfl⟩

theorem endsPass_of_encodeColumns {row : Nat} (n : Nat) : ∀ {s : State} {col : Nat} {r : Res}, s.row.toNat = row →
    col + n ≤ 2 ^ 32 → encodeColumns row n col s = .error r → EndsPass r := by
  induction n with
  | zero =>
    rintro s col r - - h
    cases h
  | succ n ih =>
    intro s col r hrow hcol h
    rw [encodeColumns] at h
    rcases encodePixel_cases hrow (by omega : col < 2 ^ 32) with ⟨u, hu, happ⟩ | herr | herr
    · obtain ⟨⟨-, -, hrow', -⟩, -⟩ := samePass_of_appended happ
      rw [hu] at h
      exact ih (hrow' ▸ hrow) (by omega) h
    · rw [herr] at h
      cases h
      exact endsPass_aborted _ _
    · rw [herr] at h
      cases h
      exact .inr rfl

theorem endsPass_of_encodeRow {row : Nat} {s : State} {r : Res} (hrow : s.row.toNat = row)
    (h : encodeRow row s = .error r) : EndsPass r := by
  rcases lt_or_ge s.dstSize.toNat (s.count.toNat + 1048576) with hm | hm
  · rw [encodeRow_of_margin hm] at h
    cases h
    exact endsPass_aborted _ _
  · have hsize := s.cols.isLt
    rw [encodeRow_of_le hm] at h
    cases hcolumns : encodeColumns row s.cols.toNat 0 s with
    | ok t =>
      rw [hcolumns] at h
      cases h
    | error r' =>
      rw [hcolumns] at h
      cases h
      exact endsPass_of_encodeColumns _ hrow (by omega) hcolumns

theorem endsPass_of_encodeRows (n : Nat) : ∀ {s : State} {row : Nat} {r : Res}, s.row.toNat = row → row + n < 2 ^ 32 →
    encodeRows n row s = .error r → EndsPass r := by
  induction n with
  | zero =>
    rintro s row r - - h
    cases h
  | succ n ih =>
    intro s row r hrow hlt h
    rw [encodeRows_succ] at h
    cases hx : encodeRow row s with
    | ok u =>
      obtain ⟨-, -, hrow', -⟩ := samePass_encodeRow hrow hx
      rw [hx] at h
      exact ih (by rw [hrow', BitVec.toNat_ofNat, Nat.mod_eq_of_lt (by omega)]) (by omega) h
    | error r' =>
      rw [hx] at h
      cases h
      exact endsPass_of_encodeRow hrow hx

theorem endsPass_finish (s : State) : EndsPass (finish s) := by
  unfold finish
  by_cases hempty : s.nbits = 0#5
  · rw [flush_of_empty hempty]
    exact .inl ⟨_, rfl, .inl rfl⟩
  · by_cases hroom : HasRoom s
    · rw [flush_eq_padded hempty hroom]
      exact .inl ⟨_, rfl, .inl rfl⟩
    · rw [flush_of_no_room hempty hroom]
      exact .inr rfl

theorem endsPass_passFrom {s : State} (hrow : s.row = 0#32) : EndsPass (passFrom s) := by
  unfold passFrom
  cases hrows : encodeRows s.rows.toNat 0 s with
  | ok t => exact endsPass_finish t
  | error r =>
    have hsize := s.rows.isLt
    exact endsPass_of_encodeRows _ (by rw [hrow]; rfl) (by omega) hrows

theorem endsPass_encodePass (s : State) : EndsPass (encodePass s) := by
  rcases lt_or_ge s.srcSize.toNat (sourceNeed s) with h | h
  · rw [encodePass_of_gt h]
    exact endsPass_aborted _ _
  · rw [encodePass_of_le h]
    exact endsPass_passFrom rfl

/-! ## A property of the core's steps is one of the pass -/

/-- What the core's effects keep, and what excludes the overrun, holds along a run of the core. -/
theorem runSteps_keeps {P : State → Prop} (hkeep : ∀ u v, P u → CoreEffect u v → P v) (hroom : ∀ u, P u → ¬ Overruns u)
    (n : Nat) : ∀ {s : State}, s.pending = [] → P s → ∃ t, runSteps n s = .next t ∧ P t := by
  induction n with
  | zero => exact fun {s} _ hs => ⟨s, rfl, hs⟩
  | succ n ih =>
    intro s hpending hs
    rcases coreStep_cases s with ⟨t, ht, heffect⟩ | ⟨-, hover⟩
    · obtain ⟨-, -, -, -, -, hsame⟩ := heffect.frame
      rw [runSteps_succ_of_step ((step_of_nil hpending).trans ht)]
      exact ih (hsame.trans hpending) (hkeep s t hs heffect)
    · exact absurd hover (hroom s hs)

/-- A pass has what the core's effects keep of the state in which it begins, and it ends at rest. -/
theorem exists_encodePass_of_keeps {P : State → Prop} (hkeep : ∀ u v, P u → CoreEffect u v → P v)
    (hroom : ∀ u, P u → ¬ Overruns u) {s : State} (hpending : s.pending = []) (hphase : s.phase = .checkSrc) (hs : P s) :
    ∃ t, encodePass s = .next t ∧ P t ∧ (t.phase = .done ∨ t.phase = .error) := by
  obtain ⟨n, -, hrun⟩ := exists_runSteps_eq_encodePass hpending hphase
  obtain ⟨t, ht, hP⟩ := runSteps_keeps hkeep hroom n hpending hs
  rw [hrun] at ht
  rcases endsPass_encodePass s with ⟨t', ht', hend⟩ | hfault
  · obtain rfl : t' = t := by rw [ht] at ht'; exact (Host.Outcome.next.inj ht').symm
    exact ⟨t', ht, hP, hend⟩
  · rw [ht] at hfault
    cases hfault

/-- The state in which START begins a pass, with nothing pending. -/
def begunAlone (s : State) : State :=
  { begun s with pending := [] }

theorem exec_encode_eq_of_rest {s : State} (h : restPhase s.phase = true) :
    exec .encode s = andThen (encodePass (begunAlone s)) fun t => .next (withContext s.out s.freeCtr s.pending t) := by
  rw [exec_encode_of_rest h]
  exact encodePass_withContext s.out s.freeCtr s.pending (s := begunAlone s) rfl

/-- Where both agents keep to a narrow frame there is room all along (R71). -/
def NarrowPass (s : State) : Prop :=
  PassAgrees s ∧ MarginAgrees s ∧ s.cols.toNat ≤ 381298

theorem narrowPass_keeps (u v : State) (h : NarrowPass u) (heffect : CoreEffect u v) : NarrowPass v := by
  obtain ⟨hpass, hmargin, hcols⟩ := h
  obtain ⟨⟨⟨hsame, -⟩, -⟩, -⟩ := heffect.frame
  exact ⟨heffect.passAgrees hpass, heffect.marginAgrees hpass hmargin, hsame ▸ hcols⟩

theorem narrowPass_not_overruns (u : State) (h : NarrowPass u) : ¬ Overruns u := by
  obtain ⟨hpass, hmargin, hcols⟩ := h
  exact not_overruns hpass hmargin hcols

theorem passAgrees_begunAlone (s : State) : PassAgrees (begunAlone s) := fun _ _ => rfl

/-! ## The inputs of a pass -/

theorem sourceNeed_of_sameInputs {s t : State} (h : SameInputs s t) : sourceNeed t = sourceNeed s := by
  obtain ⟨hcols, hrows, -⟩ := h
  rw [sourceNeed, sourceNeed, hcols, hrows]

/-- After INIT two passes with the same inputs differ outside the pass only. -/
theorem initRegs_begun_of_sameInputs {s t : State} (h : SameInputs s t) :
    initRegs (begun t) = withContext t.out t.freeCtr t.pending (initRegs (begun s)) := by
  obtain ⟨hcols, hrows, hpred, hsrcSize, hdstSize, hsrc, hdst, horder⟩ := h
  rw [initRegs, initRegs, begun, begun, withContext]
  dsimp only
  rw [hcols, hrows, hpred, hsrcSize, hdstSize, hsrc, hdst, horder]

end Sys2Proof.Machine

namespace Sys2Proof.Proofs
open Sys2Proof Sys2Proof.Machine Sys2Proof.Claims

/-- Settles O53: a pass ends at rest or overruns, and in a narrow frame it does not overrun. -/
theorem encodeCompletesForNarrowFrames : Obligations.EncodeCompletesForNarrowFrames := by
  unfold Obligations.EncodeCompletesForNarrowFrames
  intro s
  refine ⟨fun hrest hcols => ?_, exec_encode_of_busy⟩
  obtain ⟨t, ht, -, hend⟩ := exists_encodePass_of_keeps narrowPass_keeps narrowPass_not_overruns (s := begunAlone s) rfl rfl
    ⟨passAgrees_begunAlone s, trivial, hcols⟩
  rw [exec_encode_eq_of_rest hrest, ht, andThen_next]
  exact ⟨_, rfl, hend⟩

/-- Settles O55: the source check reads inputs only, and INIT writes over every register of the last pass. -/
theorem passesShareNoHiddenState : Obligations.PassesShareNoHiddenState := by
  unfold Obligations.PassesShareNoHiddenState
  intro s t hsame hs ht
  have hneed := sourceNeed_of_sameInputs hsame
  have hinit := initRegs_begun_of_sameInputs hsame
  obtain ⟨-, -, -, hsrcSize, -, -, hdst, -⟩ := hsame
  rw [exec_encode_of_rest hs, exec_encode_of_rest ht]
  rcases lt_or_ge s.srcSize.toNat (sourceNeed s) with h | h
  · have h' : t.srcSize.toNat < sourceNeed t := by rwa [hneed, ← hsrcSize]
    exact .inl ⟨_, _, encodePass_of_gt (s := begun s) h, encodePass_of_gt (s := begun t) h', rfl, rfl, rfl, rfl, hdst⟩
  · have h' : sourceNeed t ≤ t.srcSize.toNat := by rwa [hneed, ← hsrcSize]
    rw [encodePass_of_le (s := begun s) h, encodePass_of_le (s := begun t) h', hinit, passFrom_withContext _ _ _ rfl rfl]
    rcases endsPass_passFrom (s := initRegs (begun s)) rfl with ⟨u, hu, -⟩ | hfault
    · rw [hu]
      exact .inl ⟨u, _, rfl, rfl, rfl, rfl, rfl, rfl, rfl⟩
    · rw [hfault]
      exact .inr ⟨rfl, rfl⟩

end Sys2Proof.Proofs
end

section
/-! The stream of a frame (R91, R158, R180): after `k` samples the stream is the symbols of the first `k` samples, so a pass
within its limits ends with the whole frame's. -/

namespace Sys2Proof.Machine
open Sys2Proof.Claims

/-! ## Lengths -/

theorem length_dstBits (s : State) (n : Nat) : (dstBits s n).length = 8 * n := by
  induction n with
  | zero => rfl
  | succ n ih => rw [dstBits_add, List.length_append, ih, List.range_one, List.flatMap_singleton, natBits_length]; omega

theorem length_streamBits (s : State) : (streamBits s).length = position s := by
  have hn := nbits_lt s
  rw [streamBits, List.length_append, length_dstBits, heldBits, List.length_take, natBits_length, position,
    Nat.min_eq_left hn.le]

theorem frameBits_succ (s : State) (k : Nat) :
    frameBits s (k + 1) = frameBits s k ++ symBits (classOf (frameDelta s k)) (dataValue (frameDelta s k)) := by
  rw [frameBits, List.range_succ, List.flatMap_append, List.flatMap_singleton, frameBits]

/-! ## A pass within its limits -/

/-- The number of samples of the frame (R66). -/
def samples (s : State) : Nat :=
  s.rows.toNat * s.cols.toNat

/-- The source holds every sample, `DST` every symbol and the margin, and every delta has a code. -/
structure WithinLimits (s : State) : Prop where
  source : 2 * samples s ≤ s.srcSize.toNat
  room : (22 * samples s + 7) / 8 + 1048576 ≤ s.dstSize.toNat
  range : ∀ i < samples s, (frameDelta s i).natAbs ≤ 8191

theorem WithinLimits.length_frameBits_le {s : State} (h : WithinLimits s) {k : Nat} (hk : k ≤ samples s) :
    (frameBits s k).length ≤ 22 * k := by
  induction k with
  | zero => exact Nat.zero_le _
  | succ k ih =>
    have hlast := symBits_length_le (classOf_le_fourteen_iff.mpr (h.range k hk)) (dataValue (frameDelta s k))
    have hbelow := ih (Nat.le_of_succ_le hk)
    rw [frameBits_succ, List.length_append]
    omega

/-- What the pass over the frame of `s` reports and leaves in `DST` (R91, R102, R179). -/
def FrameDone (s t : State) : Prop :=
  t.result.toNat = ((frameBits s (samples s)).length + 7) / 8 ∧
    dstBits t (4 * (((frameBits s (samples s)).length + 31) / 32)) = frameBits s (samples s) ++
      List.replicate (4 * (((frameBits s (samples s)).length + 31) / 32) * 8 - (frameBits s (samples s)).length) false ∧
    ∀ a : Nat, 4 * (((frameBits s (samples s)).length + 31) / 32) ≤ a → t.dst.read a = t.dstBefore.read a

/-- How far the frame of `s` has been written in each phase. -/
def FrameSoFar (s t : State) : Prop :=
  match t.phase with
  | .checkSrc => True
  | .init => True
  | .rowCheck => streamBits t = frameBits s (t.row.toNat * t.cols.toNat)
  | .pixel => streamBits t = frameBits s (t.row.toNat * t.cols.toNat + t.col.toNat)
  | .finalFlush => streamBits t = frameBits s (samples s)
  | .done => FrameDone s t
  | .idle => False
  | .error => False

theorem frameSoFar_rowCheck {s t : State} (h : t.phase = .rowCheck) :
    FrameSoFar s t ↔ streamBits t = frameBits s (t.row.toNat * t.cols.toNat) := by
  unfold FrameSoFar
  rw [h]

theorem frameSoFar_pixel {s t : State} (h : t.phase = .pixel) :
    FrameSoFar s t ↔ streamBits t = frameBits s (t.row.toNat * t.cols.toNat + t.col.toNat) := by
  unfold FrameSoFar
  rw [h]

theorem frameSoFar_finalFlush {s t : State} (h : t.phase = .finalFlush) :
    FrameSoFar s t ↔ streamBits t = frameBits s (samples s) := by
  unfold FrameSoFar
  rw [h]

theorem frameSoFar_done {s t : State} (h : t.phase = .done) : FrameSoFar s t ↔ FrameDone s t := by
  unfold FrameSoFar
  rw [h]

/-- What holds between the steps of an undisturbed pass over the frame of `s`. -/
structure FramePass (s t : State) : Prop where
  pass : PassAgrees t
  status : StatusAgrees t
  predictor : PredictorAgrees t
  undisturbed : t.srcPast = []
  same : SameParameters s t
  before : t.dstBefore = s.dst
  written : FrameSoFar s t

theorem samples_of_same {s t : State} (h : SameParameters s t) : samples t = samples s := by
  obtain ⟨⟨hcols, hrows, -⟩, -⟩ := h
  rw [samples, samples, hcols, hrows]

theorem sameParameters_trans {s t u : State} (h : SameParameters s t) (h' : SameParameters t u) : SameParameters s u := by
  obtain ⟨⟨hcols, hrows, hpred, hsrcSize, hdstSize, horder⟩, hsrc⟩ := h
  obtain ⟨⟨hcols', hrows', hpred', hsrcSize', hdstSize', horder'⟩, hsrc'⟩ := h'
  exact ⟨⟨hcols'.trans hcols, hrows'.trans hrows, hpred'.trans hpred, hsrcSize'.trans hsrcSize, hdstSize'.trans hdstSize,
    horder'.trans horder⟩, hsrc'.trans hsrc⟩

/-! ## The writer stays below the limit -/

theorem WithinLimits.cursor_le {s t : State} (hs : WithinLimits s) {k : Nat} (hk : k ≤ samples s)
    (hstream : streamBits t = frameBits s k) : 8 * t.cursor.toNat ≤ 22 * samples s := by
  have hlen := hs.length_frameBits_le hk
  rw [← hstream, length_streamBits, position] at hlen
  omega

section
variable {s t : State} (h : FramePass s t) (hs : WithinLimits s)
include h hs

theorem FramePass.below_margin {k : Nat} (hk : k ≤ samples s) (hstream : streamBits t = frameBits s k) :
    t.cursor.toNat + 1048576 ≤ t.dstSize.toNat := by
  have hcursor := hs.cursor_le hk hstream
  have hroom := hs.room
  obtain ⟨⟨-, -, -, -, hdst, -⟩, -⟩ := h.same
  rw [hdst]
  omega

theorem FramePass.hasRoom {k : Nat} (hk : k ≤ samples s) (hstream : streamBits t = frameBits s k) : HasRoom t := by
  have hbelow := h.below_margin hs hk hstream
  unfold HasRoom
  omega

end

theorem FramePass.row_le {s t : State} (h : FramePass s t) (hrow : t.row.toNat ≤ t.rows.toNat) :
    t.row.toNat * t.cols.toNat ≤ samples s := by
  rw [← samples_of_same h.same]
  exact Nat.mul_le_mul_right _ hrow

section
variable {s t : State} (h : FramePass s t) (hphase : t.phase = .pixel)
include h hphase

/-- PIXEL is at a sample of the frame. -/
theorem FramePass.index_lt : t.row.toNat * t.cols.toNat + t.col.toNat < samples s := by
  obtain ⟨-, -, hrow, hcol⟩ := (passAgrees_pixel hphase).mp h.pass
  calc t.row.toNat * t.cols.toNat + t.col.toNat
      < t.row.toNat * t.cols.toNat + t.cols.toNat := Nat.add_lt_add_left hcol _
    _ = (t.row.toNat + 1) * t.cols.toNat := (Nat.succ_mul _ _).symm
    _ ≤ t.rows.toNat * t.cols.toNat := Nat.mul_le_mul_right _ hrow
    _ = samples s := samples_of_same h.same

/-- The delta PIXEL takes is that of its sample against the neighbouring sample (R158). -/
theorem FramePass.pixelDelta_eq : pixelDelta t = frameDelta s (t.row.toNat * t.cols.toNat + t.col.toNat) := by
  obtain ⟨-, -, -, hcol⟩ := (passAgrees_pixel hphase).mp h.pass
  obtain ⟨hseeds, hrun⟩ := (predictorAgrees_pixel hphase).mp h.predictor h.undisturbed
  have hpos : 0 < t.cols.toNat := Nat.zero_lt_of_lt hcol
  have hdiv : (t.row.toNat * t.cols.toNat + t.col.toNat) / t.cols.toNat = t.row.toNat := by
    rw [Nat.mul_comm, Nat.mul_add_div hpos, Nat.div_eq_of_lt hcol, Nat.add_zero]
  have hmod : (t.row.toNat * t.cols.toNat + t.col.toNat) % t.cols.toNat = t.col.toNat := by
    rw [Nat.mul_comm, Nat.mul_add_mod, Nat.mod_eq_of_lt hcol]
  obtain ⟨⟨hcols, -⟩, -⟩ := h.same
  rw [pixelDelta, sampleAt_of_undisturbed h.undisturbed, predictAt_eq_neighbour hseeds hrun hcol, frameDelta, delta, ← hcols,
    hdiv, hmod, placedSample_of_sameParameters h.same, neighbour_of_sameParameters h.same]

theorem FramePass.pixelBits_eq :
    frameBits s (t.row.toNat * t.cols.toNat + t.col.toNat + 1) =
      frameBits s (t.row.toNat * t.cols.toNat + t.col.toNat) ++ pixelBits t := by
  rw [frameBits_succ, ← h.pixelDelta_eq hphase, pixelBits]

end

/-! ## The end of the frame -/

section
variable {s t : State} (h : FramePass s t) (hphase : t.phase = .finalFlush)
include h hphase

theorem FramePass.frameDone_of_empty (hempty : t.nbits = 0#5) : FrameDone s (complete t) := by
  obtain ⟨-, ⟨-, halign, hcount, -, huntouched⟩, -⟩ := (passAgrees_finalFlush hphase).mp h.pass
  have hstream := (frameSoFar_finalFlush hphase).mp h.written
  have hlen : (frameBits s (samples s)).length = 8 * t.cursor.toNat := by
    rw [← hstream, length_streamBits, position, hempty]
    rfl
  have hwords : 4 * ((8 * t.cursor.toNat + 31) / 32) = t.cursor.toNat := by omega
  have hresult : (complete t).result.toNat = t.cursor.toNat := congrArg BitVec.toNat hcount
  unfold FrameDone
  rw [hlen, hwords]
  refine ⟨by omega, ?_, huntouched⟩
  have hdst : dstBits (complete t) t.cursor.toNat = frameBits s (samples s) := by
    rw [← hstream, streamBits, heldBits_of_empty hempty, List.append_nil]
    rfl
  rw [hdst, show t.cursor.toNat * 8 - 8 * t.cursor.toNat = 0 by omega, List.replicate_zero, List.append_nil]

theorem FramePass.frameDone_of_held (hheld : t.nbits ≠ 0#5) (hroom : HasRoom t) : FrameDone s (complete (padded t)) := by
  obtain ⟨-, hwriter, -⟩ := (passAgrees_finalFlush hphase).mp h.pass
  have hstream := (frameSoFar_finalFlush hphase).mp h.written
  have hresult : (complete (padded t)).result.toNat = t.cursor.toNat + (t.nbits.toNat + 7) / 8 :=
    padded_count hwriter hroom
  obtain ⟨hclean, halign, -, -, huntouched⟩ := hwriter
  have hn := nbits_lt t
  have hpos : 0 < t.nbits.toNat := Nat.pos_of_ne_zero fun h0 => hheld (BitVec.eq_of_toNat_eq h0)
  have hlen : (frameBits s (samples s)).length = 8 * t.cursor.toNat + t.nbits.toNat := by
    rw [← hstream, length_streamBits, position]
  have hwords : 4 * ((8 * t.cursor.toNat + t.nbits.toNat + 31) / 32) = t.cursor.toNat + 4 := by omega
  unfold FrameDone
  rw [hlen, hwords, ← hstream]
  refine ⟨by omega, ?_, fun a ha => ?_⟩
  · rw [show (t.cursor.toNat + 4) * 8 - (8 * t.cursor.toNat + t.nbits.toNat) = 32 - t.nbits.toNat by omega]
    exact dstBits_padded hclean
  · exact (Memory.read_writeWord_other _ _ (.inr ha)).trans (huntouched a (by omega))

end

/-! ## Every step of the pass -/

/-- A step of the core writes the frame further. -/
theorem FramePass.frameSoFar {s t u : State} (h : FramePass s t) (hs : WithinLimits s) (heffect : CoreEffect t u) :
    FrameSoFar s u := by
  have hcount : ∀ {k : Nat}, k ≤ samples s → streamBits t = frameBits s k → t.count = t.cursor →
      t.count.toNat + 1048576 ≤ t.dstSize.toNat := fun hk hstream hcount => hcount ▸ h.below_margin hs hk hstream
  cases heffect with
  | rest => exact h.written
  | sourceTooSmall _ hneed =>
    have hsource := hs.source
    have hsame : sourceNeed t = samples s * 2 := congrArg (· * 2) (samples_of_same h.same)
    obtain ⟨⟨-, -, -, hsrcSize, -, -⟩, -⟩ := h.same
    rw [hsame, hsrcSize] at hneed
    exact absurd hneed (by omega)
  | sourceChecked => trivial
  | initialised =>
    refine (frameSoFar_rowCheck rfl).mpr ?_
    have hzero : (initRegs t).row.toNat * (initRegs t).cols.toNat = 0 := Nat.zero_mul _
    exact (congrArg (frameBits s) hzero).symm
  | rowsDone hphase hend =>
    have hstream := (frameSoFar_rowCheck hphase).mp h.written
    refine (frameSoFar_finalFlush rfl).mpr ?_
    rw [hend] at hstream
    rw [← samples_of_same h.same]
    exact hstream
  | marginTooSmall hphase _ hmargin =>
    obtain ⟨-, ⟨-, -, heq, -⟩, hrow⟩ := (passAgrees_rowCheck hphase).mp h.pass
    exact absurd hmargin (not_lt.mpr (hcount (h.row_le hrow) ((frameSoFar_rowCheck hphase).mp h.written) heq))
  | emptyRow hphase _ _ hcols =>
    have hstream := (frameSoFar_rowCheck hphase).mp h.written
    have hzero : t.cols.toNat = 0 := by rw [hcols]; rfl
    refine (frameSoFar_rowCheck rfl).mpr ?_
    dsimp only
    rw [hzero, Nat.mul_zero] at hstream ⊢
    exact hstream
  | rowEntered hphase => exact (frameSoFar_pixel rfl).mpr ((frameSoFar_rowCheck hphase).mp h.written)
  | outOfRange hphase hdelta =>
    have hrange := hs.range _ (h.index_lt hphase)
    rw [h.pixelDelta_eq hphase] at hdelta
    exact absurd hdelta (by omega)
  | encoded hphase _ u happ =>
    obtain ⟨-, ⟨hclean, -⟩, hrow, hcol⟩ := (passAgrees_pixel hphase).mp h.pass
    have hstream : streamBits u = frameBits s (t.row.toNat * t.cols.toNat + t.col.toNat + 1) := by
      rw [h.pixelBits_eq hphase, ← (frameSoFar_pixel hphase).mp h.written]
      exact happ.stream hclean
    obtain ⟨a, n, p, k, m, rfl⟩ := onlyWriter_iff.mp happ.onlyWriter
    by_cases hlast : t.col.toNat + 1 < t.cols.toNat
    · rw [nextPosition_of_lt (by exact hlast)]
      refine (frameSoFar_pixel rfl).mpr (hstream.trans (congrArg (frameBits s) ?_))
      have hnext : (t.col + 1#32).toNat = t.col.toNat + 1 := toNat_add_one_of_lt hcol
      exact congrArg (t.row.toNat * t.cols.toNat + ·) hnext.symm
    · rw [nextPosition_of_ge (by exact hlast)]
      refine (frameSoFar_rowCheck rfl).mpr (hstream.trans (congrArg (frameBits s) ?_))
      have hnext : (t.row + 1#32).toNat = t.row.toNat + 1 := toNat_add_one_of_lt hrow
      have hend : t.col.toNat + 1 = t.cols.toNat := by omega
      calc t.row.toNat * t.cols.toNat + t.col.toNat + 1
          = t.row.toNat * t.cols.toNat + t.cols.toNat := by rw [Nat.add_assoc, hend]
        _ = (t.row.toNat + 1) * t.cols.toNat := (Nat.succ_mul _ _).symm
        _ = (t.row + 1#32).toNat * t.cols.toNat := by rw [hnext]
  | finishedEmpty hphase hempty => exact (frameSoFar_done rfl).mpr (h.frameDone_of_empty hphase hempty)
  | finishedPadded hphase hheld hroom => exact (frameSoFar_done rfl).mpr (h.frameDone_of_held hphase hheld hroom)

theorem FramePass.step {s t u : State} (h : FramePass s t) (hs : WithinLimits s) (heffect : CoreEffect t u) :
    FramePass s u := by
  obtain ⟨hsame, -, -, hpast, hbefore, -⟩ := heffect.frame
  exact ⟨heffect.passAgrees h.pass, heffect.statusAgrees h.status h.pass, heffect.predictorAgrees h.pass h.predictor,
    hpast.trans h.undisturbed, sameParameters_trans h.same hsame, hbefore.trans h.before, h.frameSoFar hs heffect⟩

theorem FramePass.not_overruns {s t : State} (h : FramePass s t) (hs : WithinLimits s) : ¬ Overruns t := by
  rintro ⟨hroom, ⟨hphase, -⟩ | ⟨hphase, -⟩⟩
  · exact hroom (h.hasRoom hs (h.index_lt hphase).le ((frameSoFar_pixel hphase).mp h.written))
  · exact hroom (h.hasRoom hs le_rfl ((frameSoFar_finalFlush hphase).mp h.written))

theorem framePass_begunAlone (s : State) : FramePass s (begunAlone s) where
  pass := passAgrees_begunAlone s
  status := ⟨rfl, rfl, rfl⟩
  predictor := trivial
  undisturbed := rfl
  same := ⟨⟨rfl, rfl, rfl, rfl, rfl, rfl⟩, rfl⟩
  before := rfl
  written := trivial

/-- A pass within its limits ends DONE with the frame written. -/
theorem exists_encodePass_of_withinLimits {s : State} (hs : WithinLimits s) :
    ∃ t, encodePass (begunAlone s) = .next t ∧ FramePass s t ∧ t.phase = .done := by
  obtain ⟨t, ht, hframe, hdone | herror⟩ := exists_encodePass_of_keeps (P := FramePass s) (fun _ _ h => h.step hs)
    (fun _ h => h.not_overruns hs) rfl rfl (framePass_begunAlone s)
  · exact ⟨t, ht, hframe, hdone⟩
  · have hwritten := hframe.written
    unfold FrameSoFar at hwritten
    rw [herror] at hwritten
    exact hwritten.elim

theorem statusWord_of_done {s : State} (h : StatusAgrees s) (hphase : s.phase = .done) : statusWord s = 2#32 := by
  unfold StatusAgrees at h
  rw [hphase] at h
  obtain ⟨hstate, herr, -⟩ := h
  refine BitVec.eq_of_toNat_eq ((toNat_statusWord s).trans ?_)
  rw [hstate, herr]
  rfl

end Sys2Proof.Machine

namespace Sys2Proof.Proofs
open Sys2Proof Sys2Proof.Machine Sys2Proof.Claims

/-- Settles O52: the stream grows by the symbol of each sample, and the end pads it and reports its bytes. -/
theorem encodeWritesTheStreamOfTheFrame : Obligations.EncodeWritesTheStreamOfTheFrame := by
  unfold Obligations.EncodeWritesTheStreamOfTheFrame
  rintro s n B hrest rfl hsource hroom hrange rfl
  obtain ⟨t, ht, hframe, hdone⟩ := exists_encodePass_of_withinLimits ⟨hsource, hroom, hrange⟩
  obtain ⟨hresult, hdst, hbeyond⟩ := (frameSoFar_done hdone).mp hframe.written
  rw [exec_encode_eq_of_rest hrest, ht, andThen_next]
  exact ⟨_, rfl, hdone, statusWord_of_done hframe.status hdone, hresult, hdst,
    fun a ha => (hbeyond a ha).trans (congrArg (Memory.read · a) hframe.before), hframe.same⟩

end Sys2Proof.Proofs
end
